-- ==== Sys2Proof/Word.lean ====
section
/-! DEFINITION. The widths of the block's values. Every value is unsigned (00_scope.md R9). -/

namespace Sys2Proof

/-- One byte of the serial stream, of the register bus or of the frame buffer. -/
abbrev Byte := BitVec 8

/-- A 16-bit field: counts, the declared size, raw16, a read budget. -/
abbrev Half := BitVec 16

/-- A host register, and a command word (00_scope.md R8). -/
abbrev Word := BitVec 32

/-- A value of the TIME counter, and a deadline (00_scope.md R8). -/
abbrev Time := BitVec 64

/-- A byte offset on the host port, 0x00000 to 0x1FFFF (00_scope.md R8, 20_memory.md R60). -/
abbrev Offset := BitVec 17

end Sys2Proof
end

