-- ==== Sys2Proof/Machine/Moves.lean ====
section
/-! DEFINITION. The moves of the block's six agents (10_state.md R20) and of reset, as plain data: one move is one
atomic step (00_scope.md R11, 20_memory.md R73). -/

namespace Sys2Proof.Machine

/-- The outcome BUSDEV chooses for a bus transaction (20_memory.md R66). For `BusWrite` the outcome `ok` is OK and its
three bytes carry nothing; for `BusRead3` they are `(b0, b1, b2)`. -/
inductive BusAnswer where
  | err
  | ok (b0 b1 b2 : Byte)
  deriving DecidableEq, Repr, Inhabited

/-- A transaction the block performs on the register bus (20_memory.md R66): `BusWrite(b)` or `BusRead3()`. -/
inductive BusOp where
  | write (b : Byte)
  | read3
  deriving DecidableEq, Repr, Inhabited

/-- One move of one agent.
`hostRead`, `hostWrite`: HOST, an access of `bits` bits at a byte offset (43_host_access.md R180, R182).
`ser`: one SER engine step.
`bus`: one BUS engine step; the answer is BUSDEV's completion of the transaction in flight, `none` where it has not
completed it (20_memory.md R66).
`clock`: CLOCK (10_state.md R38). `rxByte`, `rxErr`: RXCHAN (20_memory.md R63, R65).
`reset`: the reset input is asserted (70_reset_and_hazards.md R230). -/
inductive Move where
  | hostRead (bits : Nat) (off : Offset)
  | hostWrite (bits : Nat) (off : Offset) (v : Word)
  | ser
  | bus (answer : Option BusAnswer)
  | clock
  | rxByte (b : Byte)
  | rxErr (e : Bool)
  | reset
  deriving DecidableEq, Repr, Inhabited

/-- Which part of a command `exec` performs. A command is issued inside the host's write (43_host_access.md R183,
R184) and then runs one engine step at a time (00_scope.md R11); `engine` carries BUSDEV's completion, which the SER
commands do not look at. DESIGN CHOICE, safe: notes/assumptions/1.md. -/
inductive Turn where
  | issue
  | engine (answer : Option BusAnswer)
  deriving DecidableEq, Repr, Inhabited

end Sys2Proof.Machine
end

