-- ==== Sys2Proof/Config.lean ====
section
/-! DEFINITION. The block's parameters (00_scope.md R8) and the model's free values, which have no body: no proof can
see what they are. -/

namespace Sys2Proof.Config

/-- Start marker of a frame (00_scope.md R8, 30_encoding.md R89). -/
def startMarker : Byte := 0x7B

/-- Terminator of a frame (00_scope.md R8, 30_encoding.md R89). -/
def terminator : Byte := 0x7D

/-- The least declared size of a frame (00_scope.md R8, 30_encoding.md R90). -/
def minSize : Half := 6

/-- Windspeed selector (30_encoding.md R94). -/
def selWind : Byte := 0x88

/-- Current selector (30_encoding.md R94). -/
def selCur : Byte := 0xA8

/-- Bytes of the frame buffer (00_scope.md R8, 10_state.md R41). -/
def bufSize : Nat := 65536

/-- Free value: what byte `i` of the frame buffer holds while nothing has written it since the reset numbered `epoch`
(10_state.md R41, 93_implementation_defined.md U1: any value, fixed once chosen). Safe: notes/assumptions/3.md. -/
opaque bufInit (epoch i : Nat) : Byte

/-- Free value: the `n`-th move that an agent makes of its own accord, where State holds no move placed for the next
step. "A model gives each its own steps and may interleave them in any order" (10_state.md R20). Safe:
notes/assumptions/2.md. -/
opaque freeMove (n : Nat) : Machine.Move

/-- `TICK_HZ`, ticks of TIME per second: an OPEN parameter that no rule depends on (00_scope.md R8,
93_implementation_defined.md U15). Safe: notes/assumptions/9.md. -/
opaque tickHz : Nat

end Sys2Proof.Config
end

