-- ==== Sys2Proof/Syntax.lean ====
section
/-! DEFINITION. The commands of the block, one constructor per row of spec/opcode_table.json. "Command: a 32-bit word
written to SER_CMD or BUS_CMD. It is the unit this spec calls an instruction" (00_scope.md R12). -/

namespace Sys2Proof

/-- A command with its operand, an unsigned 16-bit field of the word (30_encoding.md R83).
`serReadn`: `ser.readn N` (40_exact_reader.md R110).
`serFrame`: `ser.frame` (41_frame_scanner.md R130).
`busConvertWind`, `busConvertCur`: `bus.convert.wind MAXR`, `bus.convert.cur MAXR` (42_conversion_poller.md R160). -/
inductive Instr where
  | serReadn (n : Half)
  | serFrame
  | busConvertWind (maxr : Half)
  | busConvertCur (maxr : Half)
  deriving DecidableEq, Repr, Inhabited

end Sys2Proof
end

