-- ==== Sys2Proof/WellFormed.lean ====
section
/-! DEFINITION. Which commands are legal: the operand ranges of 30_encoding.md R84, R85 and R95. -/

namespace Sys2Proof

/-- Every N is legal and `ser.frame` has no operand (30_encoding.md R84); MAXR is 1 to 65535 (30_encoding.md R85,
10_state.md R35). -/
def Instr.wellFormed : Instr → Bool
  | .serReadn _ => true
  | .serFrame => true
  | .busConvertWind maxr => maxr != 0
  | .busConvertCur maxr => maxr != 0

/-- The same as a proposition. -/
abbrev Instr.WellFormed (i : Instr) : Prop := i.wellFormed = true

end Sys2Proof
end

