-- ==== Sys2Proof/Decode.lean ====
section
/-! DEFINITION. Command words: the decoder, total on every 32-bit word, which rejects by name, and the encoder
(30_encoding.md R80 to R88, R95). -/

namespace Sys2Proof

/-- The two engines. "Which engine runs a command is decided by the register written, not by any bit of the word"
(30_encoding.md R80). -/
inductive Engine where
  | ser
  | bus
  deriving DecidableEq, Repr, Inhabited

/-- Why a word is illegal: the first check of 30_encoding.md R86 that fails. `opcode`: OP is not assigned for this
engine. `reserved`: a reserved bit is 1. `argument`: an argument is illegal. -/
inductive CmdError where
  | opcode
  | reserved
  | argument
  deriving DecidableEq, Repr, Inhabited

/-- The DETAIL code of an illegal word (30_encoding.md R86, 10_state.md R28). -/
def CmdError.detail : CmdError → BitVec 2
  | .opcode => 0
  | .reserved => 1
  | .argument => 2

/-- The engine a command runs on (30_encoding.md R84, R85). -/
def Instr.engine : Instr → Engine
  | .serReadn _ => .ser
  | .serFrame => .ser
  | .busConvertWind _ => .bus
  | .busConvertCur _ => .bus

/-- OP, bits 3:0 (30_encoding.md R81, R82). -/
def opField (w : Word) : BitVec 4 := w.extractLsb' 0 4

/-- RSVD of format SER, bits 15:4 (30_encoding.md R81). -/
def serRsvdField (w : Word) : BitVec 12 := w.extractLsb' 4 12

/-- RSVD of format BUS, bits 7:4 (30_encoding.md R82). -/
def busRsvdField (w : Word) : BitVec 4 := w.extractLsb' 4 4

/-- SEL of format BUS, bits 15:8 (30_encoding.md R82). -/
def selField (w : Word) : Byte := w.extractLsb' 8 8

/-- ARG of format SER and MAXR of format BUS, bits 31:16 (30_encoding.md R81, R82). -/
def argField (w : Word) : Half := w.extractLsb' 16 16

/-- A word written to SER_CMD (30_encoding.md R84), with the checks of R86 in their order. -/
def decodeSer (w : Word) : Except CmdError Instr :=
  if opField w = 1 then
    if serRsvdField w ≠ 0 then .error .reserved else .ok (.serReadn (argField w))
  else if opField w = 2 then
    if serRsvdField w ≠ 0 ∨ argField w ≠ 0 then .error .reserved else .ok .serFrame
  else .error .opcode

/-- A word written to BUS_CMD (30_encoding.md R85), with the checks of R86 in their order. -/
def decodeBus (w : Word) : Except CmdError Instr :=
  if opField w ≠ 1 then .error .opcode
  else if busRsvdField w ≠ 0 then .error .reserved
  else if argField w = 0 then .error .argument
  else if selField w = Config.selWind then .ok (.busConvertWind (argField w))
  else if selField w = Config.selCur then .ok (.busConvertCur (argField w))
  else .error .argument

/-- The check of a word written to an engine's CMD register: the command it is, or why it is none
(30_encoding.md R86; `Check(E, w)` of 43_host_access.md R183). -/
def decode : Engine → Word → Except CmdError Instr
  | .ser, w => decodeSer w
  | .bus, w => decodeBus w

/-- The word of a command (30_encoding.md R95). -/
def encode : Instr → Word
  | .serReadn n => n ++ (0x0001 : Half)
  | .serFrame => (0x0000 : Half) ++ (0x0002 : Half)
  | .busConvertWind maxr => maxr ++ (Config.selWind ++ (0x01 : Byte))
  | .busConvertCur maxr => maxr ++ (Config.selCur ++ (0x01 : Byte))

/-- The engine whose table rows a word can match: no word is legal for both (30_encoding.md R84, R85: bits 15:8 of a
SER row are 0, those of a BUS row a selector). DEDUCED, safe: notes/assumptions/11.md. -/
def rowEngine (w : Word) : Engine :=
  if selField w = Config.selWind ∨ selField w = Config.selCur then .bus else .ser

/-- The command word that the host's numbering of a table row gives: `nbits` bits of `w`, the rest 0, and no command
longer than one word (30_encoding.md R88). -/
def tableWord (nbits w : Nat) : Option Word :=
  if w % 2 ^ nbits < 2 ^ 32 then some (BitVec.ofNat 32 (w % 2 ^ nbits)) else none

/-- The command the decoder reads from a table word. -/
def decodeTableWord (nbits w : Nat) : Option Instr :=
  match tableWord nbits w with
  | none => none
  | some v =>
    match decode (rowEngine v) v with
    | .ok i => some i
    | .error _ => none

end Sys2Proof
end

