-- ==== Sys2Proof/Machine/State.lean ====
section
/-! DEFINITION. The state of the block as plain data (10_state.md R23 to R44), its faults and refusals, and the state
right after reset (70_reset_and_hazards.md R231). -/

namespace Sys2Proof.Machine

/-- RESULT codes 0 to 6 in their order (10_state.md R26). Codes 7 to 15 are never produced, so the type has none. -/
inductive Result where
  | ok
  | timeout
  | invalidFrame
  | checksumMismatch
  | conversionTimeout
  | ioError
  | illegalCommand
  deriving DecidableEq, Repr, Inhabited

/-- PHASE codes 0 to 5 of the SER engine in their order (10_state.md R27). -/
inductive SerPhase where
  | idle
  | scan
  | header
  | tail
  | check
  | readn
  deriving DecidableEq, Repr, Inhabited

/-- PHASE codes 0 to 2 of the BUS engine in their order (10_state.md R27). -/
inductive BusPhase where
  | idle
  | select
  | poll
  deriving DecidableEq, Repr, Inhabited

/-- The status fields both engines have (10_state.md R25): `E.busy`, `E.done`, `E.rej`, `E.result`, `E.detail`. -/
structure Status where
  busy : Bool
  done : Bool
  rej : Bool
  result : Result
  detail : BitVec 2
  deriving DecidableEq, Repr, Inhabited

/-- The SER engine (10_state.md R39). A field that is a host register field is stored here once. -/
structure SerEngine where
  cmd : Word
  st : Status
  phase : SerPhase
  dl : Time
  need : Half
  cnt : Half
  total : Half
  sum : Byte
  endb : Byte
  kind : Byte
  size : Half
  discard : Word
  deriving DecidableEq, Repr, Inhabited

/-- The BUS engine (10_state.md R40). -/
structure BusEngine where
  cmd : Word
  st : Status
  phase : BusPhase
  sel : Byte
  maxr : Half
  reads : Half
  raw16 : Half
  stat : Byte
  deriving DecidableEq, Repr, Inhabited

/-- The frame buffer's bytes written since reset, by index, in strictly rising order (10_state.md R41). An index that
is not listed has not been written since reset. -/
abbrev Memory := List Host.Cell

/-- The frame buffer: the bytes written since reset, and the number of the reset that says what every other byte holds
(the model's own: notes/assumptions/3.md). -/
structure FrameBuf where
  bytes : Memory
  epoch : Nat
  deriving DecidableEq, Repr, Inhabited

/-- The block's state and what stands beside it.
`ser`, `bus`: the engines (10_state.md R39, R40).
`dlLo`, `dlHi`: SER_DEADLINE_LO, SER_DEADLINE_HI (10_state.md R29).
`now`: TIME (10_state.md R38). `buf`: the frame buffer (10_state.md R41).
`rxq`, `rxErr`: the serial channel's queue and error condition (10_state.md R44).
The rest is the model's own: `busTrace` lists the transactions performed on the register bus, newest first
(notes/assumptions/8.md), `hostV` is the value the last HOST read returned (notes/assumptions/5.md), `turn` is the part
of a command that exec performs (notes/assumptions/1.md), `pending` and `moveCount` say which move comes next
(notes/assumptions/2.md). -/
structure State where
  ser : SerEngine
  bus : BusEngine
  dlLo : Word
  dlHi : Word
  now : Time
  buf : FrameBuf
  rxq : List Byte
  rxErr : Bool
  busTrace : List BusOp
  hostV : Word
  turn : Turn
  pending : List Move
  moveCount : Nat
  deriving DecidableEq, Repr, Inhabited

/-- Why a step can stop. Neither is reached from State.reset. -/
inductive Fault where
  /-- Raised by a meaning asked for an engine step in a phase its command does not have, IDLE and CHECK among them
  (93_implementation_defined.md U6: fault, if a model ever produces one). Safe: notes/assumptions/10.md. -/
  | phaseNotOfCommand (e : Engine)
  /-- Raised by the step of a busy engine whose latched word is no command of it (93_implementation_defined.md U6).
  Safe: notes/assumptions/10.md. -/
  | wordNotCommand (e : Engine)
  deriving DecidableEq, Repr

/-- Why a step can be refused. -/
inductive Refusal where
  /-- Raised by exec for a command that has no meaning yet. Safe. -/
  | notModelled (mnemonic : String)
  /-- Raised by a HOST access that is not 32 bits wide, which has no meaning (43_host_access.md R186,
  93_implementation_defined.md U3: refuse). Safe: notes/assumptions/6.md. -/
  | accessWidth (bits : Nat)
  /-- Raised by a HOST access that is not at a multiple of 4, which has no meaning (43_host_access.md R186,
  93_implementation_defined.md U3: refuse). Safe: notes/assumptions/6.md. -/
  | misaligned (off : Offset)
  deriving DecidableEq, Repr

/-- The status fields right after reset (70_reset_and_hazards.md R231). -/
def Status.reset : Status :=
  { busy := false, done := false, rej := false, result := .ok, detail := 0 }

/-- The SER engine right after reset (70_reset_and_hazards.md R231). -/
def SerEngine.reset : SerEngine :=
  { cmd := 0, st := Status.reset, phase := .idle, dl := 0, need := 0, cnt := 0, total := 0, sum := 0, endb := 0,
    kind := 0, size := 0, discard := 0 }

/-- The BUS engine right after reset (70_reset_and_hazards.md R231). -/
def BusEngine.reset : BusEngine :=
  { cmd := 0, st := Status.reset, phase := .idle, sel := 0, maxr := 0, reads := 0, raw16 := 0, stat := 0 }

/-- The machine right after reset (70_reset_and_hazards.md R231). The channel is empty and without error: DESIGN CHOICE,
unsafe, notes/assumptions/4.md; the model's own fields are at their first values (notes/assumptions/1.md to 8.md). -/
def State.reset : State :=
  { ser := SerEngine.reset, bus := BusEngine.reset, dlLo := 0, dlHi := 0, now := 0, buf := { bytes := [], epoch := 0 },
    rxq := [], rxErr := false, busTrace := [], hostV := 0, turn := .issue, pending := [], moveCount := 0 }

end Sys2Proof.Machine
end

