-- ==== Sys2Proof/Machine/Ops.lean ====
section
/-! DEFINITION. The named operations over the state: its updates, the frame buffer (20_memory.md R61), the serial
channel (R63), the register bus (R66), ending a command (60_exceptions.md R203), which is the block's only exception,
and issuing one (43_host_access.md R183, R184), which is the only thing that follows it (60_exceptions.md R207). -/

namespace Sys2Proof.Machine

/-! ## Updates -/

def State.setSer (s : State) (e : SerEngine) : State := { s with ser := e }
def State.setBus (s : State) (e : BusEngine) : State := { s with bus := e }
def State.setDlLo (s : State) (v : Word) : State := { s with dlLo := v }
def State.setDlHi (s : State) (v : Word) : State := { s with dlHi := v }
def State.setNow (s : State) (t : Time) : State := { s with now := t }
def State.setBuf (s : State) (b : FrameBuf) : State := { s with buf := b }
def State.setRxq (s : State) (q : List Byte) : State := { s with rxq := q }
def State.setRxErr (s : State) (e : Bool) : State := { s with rxErr := e }
def State.setBusTrace (s : State) (l : List BusOp) : State := { s with busTrace := l }
def State.setHostV (s : State) (v : Word) : State := { s with hostV := v }

/-! ## The frame buffer -/

/-- The byte written last at an index since reset, if any. -/
def Memory.read? : Memory → Nat → Option Byte
  | [], _ => none
  | (k, b) :: rest, a => if k = a then some b else Memory.read? rest a

/-- `MemWrite(a, 1, v)` on the list of written bytes (20_memory.md R61), keeping it in strictly rising order. -/
def Memory.write : Memory → Nat → Byte → Memory
  | [], a, v => [(a, v)]
  | (k, b) :: rest, a, v =>
    if a < k then (a, v) :: (k, b) :: rest
    else if a = k then (a, v) :: rest
    else (k, b) :: Memory.write rest a v

/-- The canonical form: indices strictly rising and inside the buffer (20_memory.md R60). An unlisted index is one that
nothing has written since reset, which no entry says, so equal buffers are equal lists. -/
abbrev Memory.wf (m : Memory) : Prop :=
  (m.map Prod.fst).Pairwise (· < ·) ∧ ∀ c ∈ m, c.1 < Config.bufSize

/-- `buf[i]`. A byte that nothing has written since reset is a free value (93_implementation_defined.md U1; safe,
notes/assumptions/3.md). -/
def FrameBuf.byte (b : FrameBuf) (i : Nat) : Byte :=
  (Memory.read? b.bytes i).getD (Config.bufInit b.epoch i)

/-- `MemRead(a, n)`, little-endian (20_memory.md R61). -/
def FrameBuf.memRead (b : FrameBuf) (a : Nat) : Nat → Nat
  | 0 => 0
  | n + 1 => (b.byte a).toNat + 256 * b.memRead (a + 1) n

/-- `MemWrite(a, 1, v)` (20_memory.md R61). -/
def FrameBuf.memWrite (b : FrameBuf) (a : Nat) (v : Byte) : FrameBuf :=
  { b with bytes := Memory.write b.bytes a v }

/-! ## The serial channel and the register bus -/

/-- `RxTake()`: the first byte of the queue and the state without it; `none` where `rx_valid` is false
(20_memory.md R63). -/
def rxTake (s : State) : Option (Byte × State) :=
  match s.rxq with
  | [] => none
  | b :: rest => some (b, s.setRxq rest)

/-- The transaction a busy BUS engine waits for BUSDEV to complete (10_state.md R44, 20_memory.md R66). -/
def inFlight (s : State) : Option BusOp :=
  if s.bus.st.busy then
    match s.bus.phase with
    | .idle => none
    | .select => some (.write s.bus.sel)
    | .poll => some .read3
  else none

/-- A transaction is performed on the register bus (20_memory.md R66), whatever BUSDEV's outcome. -/
def busPerform (op : BusOp) (s : State) : State :=
  s.setBusTrace (op :: s.busTrace)

/-! ## Ending a command: the block's only exception -/

/-- `raise R(d)` on the status fields (60_exceptions.md R203): the one way a command ends. No state is saved elsewhere
and every other field keeps the value its step left. -/
def Status.raise (st : Status) (r : Result) (d : BitVec 2) : Status :=
  { st with result := r, detail := d, busy := false, done := true }

/-- `raise R(d)` in the SER engine (60_exceptions.md R203). -/
def raiseSer (r : Result) (d : BitVec 2) (s : State) : State :=
  s.setSer { s.ser with st := s.ser.st.raise r d }

/-- `raise R(d)` in the BUS engine (60_exceptions.md R203). -/
def raiseBus (r : Result) (d : BitVec 2) (s : State) : State :=
  s.setBus { s.bus with st := s.bus.st.raise r d }

/-! ## Issuing a command -/

/-- The status fields a common accept clears (43_host_access.md R183). -/
def Status.accept (st : Status) : Status :=
  { st with rej := false, done := false, result := .ok, detail := 0 }

/-- `E.busy <- 1` (43_host_access.md R183). -/
def Status.start (st : Status) : Status :=
  { st with busy := true }

/-- A command word ignored because its engine is busy: only REJ changes (43_host_access.md R184). -/
def Status.reject (st : Status) : Status :=
  { st with rej := true }

/-- The SER engine after the common accept of word `w` (43_host_access.md R183): the deadline registers are latched and
the result registers cleared. -/
def acceptSer (w : Word) (s : State) : SerEngine :=
  { cmd := w, st := s.ser.st.accept, phase := s.ser.phase, dl := s.dlHi ++ s.dlLo, need := 0, cnt := 0, total := 0,
    sum := 0, endb := 0, kind := 0, size := 0, discard := 0 }

/-- The BUS engine after the common accept of word `w` (43_host_access.md R183). -/
def acceptBus (w : Word) (s : State) : BusEngine :=
  { cmd := w, st := s.bus.st.accept, phase := s.bus.phase, sel := selField w, maxr := 0, reads := 0, raw16 := 0,
    stat := 0 }

/-- `HostWriteCmd(SER, w)` (43_host_access.md R183, R184; an illegal word: 60_exceptions.md R217). `init` is the
command's own initialisation. -/
def issueSer (w : Word) (init : SerEngine → SerEngine) (s : State) : State :=
  if s.ser.st.busy then s.setSer { s.ser with st := s.ser.st.reject }
  else
    match decode .ser w with
    | .error d => raiseSer .illegalCommand d.detail (s.setSer { acceptSer w s with phase := .idle })
    | .ok _ => s.setSer (init { acceptSer w s with st := (acceptSer w s).st.start })

/-- `HostWriteCmd(BUS, w)` (43_host_access.md R183, R184; an illegal word: 60_exceptions.md R217). `init` is the
command's own initialisation. -/
def issueBus (w : Word) (init : BusEngine → BusEngine) (s : State) : State :=
  if s.bus.st.busy then s.setBus { s.bus with st := s.bus.st.reject }
  else
    match decode .bus w with
    | .error d => raiseBus .illegalCommand d.detail (s.setBus { acceptBus w s with phase := .idle })
    | .ok _ => s.setBus (init { acceptBus w s with st := (acceptBus w s).st.start })

/-- `HostWriteCmd(E, w)` for a word that is no command of the engine: nothing is initialised (60_exceptions.md R217). -/
def issueIllegal (e : Engine) (w : Word) (s : State) : State :=
  match e with
  | .ser => issueSer w id s
  | .bus => issueBus w id s

/-! ## Reset -/

/-- The reset input is asserted (70_reset_and_hazards.md R230 to R232): every block register and engine field to its
reset value, the buffer's contents unspecified (a new epoch of free values), the channel and what lies outside the block
unaffected. -/
def assertReset (s : State) : State :=
  { State.reset with
    buf := { bytes := [], epoch := s.buf.epoch + 1 }, rxq := s.rxq, rxErr := s.rxErr, busTrace := s.busTrace,
    hostV := s.hostV, turn := s.turn, pending := s.pending, moveCount := s.moveCount }

end Sys2Proof.Machine
end

