-- ==== Sys2Proof/Machine/Flags.lean ====
section
/-! DEFINITION. The codes and the word of the STATUS registers (10_state.md R25 to R27), and every test and running
value the engines use: the deadline (60_exceptions.md R201), the ready bit (42_conversion_poller.md R163), the running
Checksum8 (40_exact_reader.md R112) and the stray byte count (10_state.md R32). -/

namespace Sys2Proof.Machine

/-- RESULT codes (10_state.md R26). -/
def Result.code : Result → BitVec 4
  | .ok => 0
  | .timeout => 1
  | .invalidFrame => 2
  | .checksumMismatch => 3
  | .conversionTimeout => 4
  | .ioError => 5
  | .illegalCommand => 6

/-- PHASE codes of SER (10_state.md R27). -/
def SerPhase.code : SerPhase → BitVec 4
  | .idle => 0
  | .scan => 1
  | .header => 2
  | .tail => 3
  | .check => 4
  | .readn => 5

/-- PHASE codes of BUS (10_state.md R27). -/
def BusPhase.code : BusPhase → BitVec 4
  | .idle => 0
  | .select => 1
  | .poll => 2

/-- A STATUS register: DETAIL 13:12, PHASE 11:8, RESULT 7:4, REJ 2, DONE 1, BUSY 0, the rest 0 (10_state.md R25). -/
def statusWord (st : Status) (phase : BitVec 4) : Word :=
  (0 : BitVec 18) ++ (st.detail ++ (phase ++ (st.result.code ++
    ((0 : BitVec 1) ++ (BitVec.ofBool st.rej ++ (BitVec.ofBool st.done ++ BitVec.ofBool st.busy))))))

/-- The deadline is reached exactly when `now >= ser.dl`, unsigned (60_exceptions.md R201). -/
def deadlineReached (s : State) : Bool := decide (s.ser.dl ≤ s.now)

/-- A response is ready exactly when bit 7 of its third byte is 0 (42_conversion_poller.md R163). -/
def ready (b2 : Byte) : Bool := !b2.getLsbD 7

/-- Whether the byte stored next enters the running Checksum8: every byte in READN and HEADER, and in TAIL the bytes at
index `<= size - 2`, so the terminator stays out (40_exact_reader.md R112). -/
def sumCovers (e : SerEngine) : Bool :=
  match e.phase with
  | .readn => true
  | .header => true
  | .tail => decide (e.total.toNat + 2 ≤ e.size.toNat)
  | .idle => false
  | .scan => false
  | .check => false

/-- The stray byte count after one more, saturating at 0xFFFFFFFF (10_state.md R32, 41_frame_scanner.md R131). -/
def discardNext (d : Word) : Word :=
  if d = 0xFFFFFFFF then d else d + 1

end Sys2Proof.Machine
end

