-- ==== Sys2Proof/Machine/Operands.lean ====
section
/-! DEFINITION. Operand assembly from the frame's bytes and from a bus response (20_memory.md R67, 30_encoding.md R90,
R93), and the consumer's scale of raw16 (42_conversion_poller.md R166). The operands of a command word are fields of it
(30_encoding.md R83): Sys2Proof/Decode.lean. -/

namespace Sys2Proof.Machine

/-- The kind byte, frame byte 1 (30_encoding.md R91). -/
def frameKind (b : FrameBuf) : Byte := BitVec.ofNat 8 (b.memRead 1 1)

/-- The declared size, frame bytes 2 and 3, little-endian (20_memory.md R67, 30_encoding.md R90). -/
def frameSize (b : FrameBuf) : Half := BitVec.ofNat 16 (b.memRead 2 2)

/-- The last tail byte, at index `size - 1` (41_frame_scanner.md R135). -/
def frameEnd (b : FrameBuf) (size : Half) : Byte := BitVec.ofNat 8 (b.memRead (size.toNat - 1) 1)

/-- raw16, big-endian: the first byte of the response is the most significant (20_memory.md R67, 30_encoding.md R93). -/
def raw16Of (b0 b1 : Byte) : Half := b0 ++ b1

/-- The exact voltage of a reading, for consumers of RAW16: raw16 / 16000 volts, raw16 unsigned
(42_conversion_poller.md R165, R166). The block does not compute it. -/
def volts (raw16 : Half) : Rat := (raw16.toNat : Rat) / 16000

end Sys2Proof.Machine
end

