-- ==== Sys2Proof/Machine/ConversionPoller.lean ====
section
/-! DEFINITION. The Conversion Poller: the meaning of `bus.convert.wind` and `bus.convert.cur`
(42_conversion_poller.md R160 to R168). -/

namespace Sys2Proof.Machine

/-- `SelectStep()` (42_conversion_poller.md R161): one `BusWrite` of the selector, which happens only when BUSDEV
completes it. -/
def selectStep (answer : Option BusAnswer) (s : State) : State :=
  match answer with
  | none => s
  | some .err => raiseBus .ioError 0 (busPerform (.write s.bus.sel) s)
  | some (.ok _ _ _) => (busPerform (.write s.bus.sel) s).setBus { s.bus with phase := .poll }

/-- The BUS engine after a successful 3-byte read (42_conversion_poller.md R162). -/
def pollRecord (b0 b1 b2 : Byte) (e : BusEngine) : BusEngine :=
  { e with reads := e.reads + 1, raw16 := raw16Of b0 b1, stat := b2 }

/-- `PollStep()` (42_conversion_poller.md R162): one `BusRead3`, which happens only when BUSDEV completes it; the ready
test before the budget (R164). -/
def pollStep (answer : Option BusAnswer) (s : State) : State :=
  match answer with
  | none => s
  | some .err => raiseBus .ioError 0 (busPerform .read3 s)
  | some (.ok b0 b1 b2) =>
    if ready b2 then
      raiseBus .ok 0 ((busPerform .read3 s).setBus (pollRecord b0 b1 b2 s.bus))
    else if (pollRecord b0 b1 b2 s.bus).reads = s.bus.maxr then
      raiseBus .conversionTimeout 0 ((busPerform .read3 s).setBus (pollRecord b0 b1 b2 s.bus))
    else
      (busPerform .read3 s).setBus (pollRecord b0 b1 b2 s.bus)

/-- One engine step of a conversion (42_conversion_poller.md R160). -/
def convertStep (answer : Option BusAnswer) (s : State) : Host.Outcome State Fault Refusal :=
  match s.bus.phase with
  | .select => .next (selectStep answer s)
  | .poll => .next (pollStep answer s)
  | .idle => .fault (.phaseNotOfCommand .bus)

/-- The initialisation of a conversion at acceptance (42_conversion_poller.md R160). -/
def convertInit (maxr : Half) (e : BusEngine) : BusEngine :=
  { e with maxr := maxr, phase := .select }

/-- `bus.convert.wind MAXR` (42_conversion_poller.md R160). -/
def execBusConvertWind (maxr : Half) (s : State) : Host.Outcome State Fault Refusal :=
  match s.turn with
  | .issue => .next (issueBus (encode (.busConvertWind maxr)) (convertInit maxr) s)
  | .engine answer => convertStep answer s

/-- `bus.convert.cur MAXR` (42_conversion_poller.md R160). -/
def execBusConvertCur (maxr : Half) (s : State) : Host.Outcome State Fault Refusal :=
  match s.turn with
  | .issue => .next (issueBus (encode (.busConvertCur maxr)) (convertInit maxr) s)
  | .engine answer => convertStep answer s

end Sys2Proof.Machine
end

