-- ==== Sys2Proof/Machine/ExactReader.lean ====
section
/-! DEFINITION. The Exact Reader: the engine step that `ser.readn` and `ser.frame` share (40_exact_reader.md R111,
R112), and the meaning of `ser.readn` (R110, R113). -/

namespace Sys2Proof.Machine

/-- `ErStore(b)` (40_exact_reader.md R112). -/
def erStore (b : Byte) (s : State) : State :=
  (s.setBuf (s.buf.memWrite s.ser.total.toNat b)).setSer
    { s.ser with
      sum := if sumCovers s.ser then s.ser.sum + b else s.ser.sum
      total := s.ser.total + 1
      cnt := s.ser.cnt + 1 }

/-- `ErStep()` (40_exact_reader.md R111), the phase's completion action `ErDone()` given: completion, then deadline, then
channel error, then a byte, else a wait that changes nothing. -/
def erStep (done : State → State) (s : State) : State :=
  if s.ser.cnt = s.ser.need then done s
  else if deadlineReached s then raiseSer .timeout 0 s
  else if s.rxErr then raiseSer .ioError 0 s
  else
    match rxTake s with
    | none => s
    | some (b, s1) =>
      if (erStore b s1).ser.cnt = (erStore b s1).ser.need then done (erStore b s1) else erStore b s1

/-- `ErDone()` of READN (40_exact_reader.md R113). -/
def readnDone (s : State) : State := raiseSer .ok 0 s

/-- The initialisation of `ser.readn N` at acceptance (40_exact_reader.md R110). -/
def readnInit (n : Half) (e : SerEngine) : SerEngine :=
  { e with need := n, phase := .readn }

/-- `ser.readn N` (40_exact_reader.md R110). -/
def execSerReadn (n : Half) (s : State) : Host.Outcome State Fault Refusal :=
  match s.turn with
  | .issue => .next (issueSer (encode (.serReadn n)) (readnInit n) s)
  | .engine _ =>
    match s.ser.phase with
    | .readn => .next (erStep readnDone s)
    | .idle => .fault (.phaseNotOfCommand .ser)
    | .scan => .fault (.phaseNotOfCommand .ser)
    | .header => .fault (.phaseNotOfCommand .ser)
    | .tail => .fault (.phaseNotOfCommand .ser)
    | .check => .fault (.phaseNotOfCommand .ser)

end Sys2Proof.Machine
end

