-- ==== Sys2Proof/Machine/FrameScanner.lean ====
section
/-! DEFINITION. The Frame Scanner and its Checksum8 validator: the meaning of `ser.frame` (41_frame_scanner.md R130 to
R135). -/

namespace Sys2Proof.Machine

/-- A start marker is taken in SCAN: it is stored at index 0 and the header begins (41_frame_scanner.md R131). -/
def scanStart (b : Byte) (s : State) : State :=
  (s.setBuf (s.buf.memWrite 0 b)).setSer
    { s.ser with total := 1, sum := Config.startMarker, phase := .header, need := 3, cnt := 0 }

/-- A stray byte is taken in SCAN: it is counted and dropped (41_frame_scanner.md R131). -/
def scanStray (s : State) : State :=
  s.setSer { s.ser with discard := discardNext s.ser.discard }

/-- `ScanStep()` (41_frame_scanner.md R131): deadline, then channel error, then a byte, else a wait. -/
def scanStep (s : State) : State :=
  if deadlineReached s then raiseSer .timeout 0 s
  else if s.rxErr then raiseSer .ioError 0 s
  else
    match rxTake s with
    | none => s
    | some (b, s1) => if b = Config.startMarker then scanStart b s1 else scanStray s1

/-- `HeaderDone()` (41_frame_scanner.md R133): KIND and SIZE are recorded whatever the outcome. -/
def headerDone (s : State) : State :=
  if frameSize s.buf < Config.minSize then
    raiseSer .invalidFrame 0 (s.setSer { s.ser with kind := frameKind s.buf, size := frameSize s.buf })
  else
    s.setSer
      { s.ser with
        kind := frameKind s.buf, size := frameSize s.buf, phase := .tail, need := frameSize s.buf - 4, cnt := 0 }

/-- `TailDone()` (41_frame_scanner.md R135): ENDB is recorded and CHECK entered whatever the outcome; the terminator is
tested before the sum. -/
def tailDone (s : State) : State :=
  if frameEnd s.buf s.ser.size ≠ Config.terminator then
    raiseSer .invalidFrame 1 (s.setSer { s.ser with endb := frameEnd s.buf s.ser.size, phase := .check })
  else if s.ser.sum ≠ 0 then
    raiseSer .checksumMismatch 0 (s.setSer { s.ser with endb := frameEnd s.buf s.ser.size, phase := .check })
  else
    raiseSer .ok 0 (s.setSer { s.ser with endb := frameEnd s.buf s.ser.size, phase := .check })

/-- The initialisation of `ser.frame` at acceptance (41_frame_scanner.md R130). -/
def frameInit (e : SerEngine) : SerEngine :=
  { e with need := 0, phase := .scan }

/-- `ser.frame` (41_frame_scanner.md R130). -/
def execSerFrame (s : State) : Host.Outcome State Fault Refusal :=
  match s.turn with
  | .issue => .next (issueSer (encode .serFrame) frameInit s)
  | .engine _ =>
    match s.ser.phase with
    | .scan => .next (scanStep s)
    | .header => .next (erStep headerDone s)
    | .tail => .next (erStep tailDone s)
    | .idle => .fault (.phaseNotOfCommand .ser)
    | .check => .fault (.phaseNotOfCommand .ser)
    | .readn => .fault (.phaseNotOfCommand .ser)

end Sys2Proof.Machine
end

