-- ==== Sys2Proof/Machine/Dispatch.lean ====
section
/-! DEFINITION. The dispatch: one arm per command. -/

namespace Sys2Proof.Machine

-- The part of command `i` that `s.turn` names: its issue, or one engine step of it.
def exec (i : Instr) (s : State) : Host.Outcome State Fault Refusal :=
  match i with
  | .serReadn n => Sys2Proof.Machine.execSerReadn n s
  | .serFrame => Sys2Proof.Machine.execSerFrame s
  | .busConvertWind maxr => Sys2Proof.Machine.execBusConvertWind maxr s
  | .busConvertCur maxr => Sys2Proof.Machine.execBusConvertCur maxr s

end Sys2Proof.Machine
end

