-- ==== Sys2Proof/Machine/HostPort.lean ====
section
/-! DEFINITION. The host register map and what a HOST read returns (10_state.md R23 to R38, 43_host_access.md R180,
R181). -/

namespace Sys2Proof.Machine

/-- The host registers (10_state.md R23), but for the window. -/
inductive HostReg where
  | serCmd
  | serStatus
  | serDeadlineLo
  | serDeadlineHi
  | serCount
  | serTotal
  | serDiscard
  | serFrameInfo
  | serCheck
  | busCmd
  | busStatus
  | busResult
  | busReads
  | timeLo
  | timeHi
  deriving DecidableEq, Repr, Inhabited

/-- Byte offsets (10_state.md R23). -/
def HostReg.offset : HostReg → Offset
  | .serCmd => 0x000
  | .serStatus => 0x004
  | .serDeadlineLo => 0x008
  | .serDeadlineHi => 0x00C
  | .serCount => 0x010
  | .serTotal => 0x014
  | .serDiscard => 0x018
  | .serFrameInfo => 0x01C
  | .serCheck => 0x020
  | .busCmd => 0x100
  | .busStatus => 0x104
  | .busResult => 0x108
  | .busReads => 0x10C
  | .timeLo => 0x200
  | .timeHi => 0x204

/-- Every host register, in the order of the map (10_state.md R23). -/
def hostRegs : List HostReg :=
  [.serCmd, .serStatus, .serDeadlineLo, .serDeadlineHi, .serCount, .serTotal, .serDiscard, .serFrameInfo, .serCheck,
    .busCmd, .busStatus, .busResult, .busReads, .timeLo, .timeHi]

/-- The register at an offset; `none` for the window and for an unmapped offset (10_state.md R23, 20_memory.md R71). -/
def regAt (off : Offset) : Option HostReg :=
  hostRegs.find? (fun r => r.offset == off)

/-- The CMD register of an engine (30_encoding.md R80). -/
def cmdReg : Engine → HostReg
  | .ser => .serCmd
  | .bus => .busCmd

/-- The value of a register: its fields at their bit positions, reserved bits 0 (43_host_access.md R181; the fields in
10_state.md R24, R25, R29 to R38). -/
def regValue (s : State) : HostReg → Word
  | .serCmd => s.ser.cmd
  | .serStatus => statusWord s.ser.st s.ser.phase.code
  | .serDeadlineLo => s.dlLo
  | .serDeadlineHi => s.dlHi
  | .serCount => s.ser.need ++ s.ser.cnt
  | .serTotal => (0 : Half) ++ s.ser.total
  | .serDiscard => s.ser.discard
  | .serFrameInfo => s.ser.size ++ ((0 : Byte) ++ s.ser.kind)
  | .serCheck => (0 : Half) ++ (s.ser.endb ++ s.ser.sum)
  | .busCmd => s.bus.cmd
  | .busStatus => statusWord s.bus.st s.bus.phase.code
  | .busResult => (0 : Byte) ++ (s.bus.stat ++ s.bus.raw16)
  | .busReads => s.bus.maxr ++ s.bus.reads
  | .timeLo => s.now.extractLsb' 0 32
  | .timeHi => s.now.extractLsb' 32 32

/-- The first offset of the SER_BUF window (10_state.md R23). -/
def windowBase : Nat := 0x10000

/-- What an aligned 32-bit HOST read returns (43_host_access.md R180): the window, a register, or 0 where nothing is
mapped (20_memory.md R62, R71). -/
def hostReadValue (s : State) (off : Offset) : Word :=
  if windowBase ≤ off.toNat then BitVec.ofNat 32 (s.buf.memRead (off.toNat - windowBase) 4)
  else
    match regAt off with
    | some r => regValue s r
    | none => 0

end Sys2Proof.Machine
end

