-- ==== Sys2Proof/Machine/Agents.lean ====
section
/-! DEFINITION. What one move of each agent does (10_state.md R20), and which move comes next. -/

namespace Sys2Proof.Machine

/-! ## Which move comes next -/

/-- The part of a command that a move performs: an engine's move one engine step, a host's write its issue. -/
def Move.turn : Move → Turn
  | .hostRead _ _ => .issue
  | .hostWrite _ _ _ => .issue
  | .ser => .engine none
  | .bus answer => .engine answer
  | .clock => .issue
  | .rxByte _ => .issue
  | .rxErr _ => .issue
  | .reset => .issue

/-- The move of the next step: the first one placed, else a free one (10_state.md R20: any agent, in any order; safe,
notes/assumptions/2.md). -/
def nextMove (s : State) : Move :=
  match s.pending with
  | m :: _ => m
  | [] => Config.freeMove s.moveCount

/-- The state in which that move is made: it is no longer to come, and `turn` says what exec is to perform. -/
def takeMove (s : State) : State :=
  match s.pending with
  | m :: rest => { s with pending := rest, turn := m.turn }
  | [] => { s with moveCount := s.moveCount + 1, turn := (Config.freeMove s.moveCount).turn }

/-! ## HOST -/

/-- A word is written to an engine's CMD register (43_host_access.md R183, R184): a legal one is a command, an illegal
one ends at once (60_exceptions.md R217). -/
def hostWriteCmd (e : Engine) (w : Word) (s : State) : Host.Outcome State Fault Refusal :=
  match decode e w with
  | .ok i => exec i s
  | .error _ => .next (issueIllegal e w s)

/-- An aligned 32-bit HOST write (43_host_access.md R182, R185). -/
def hostWrite (off : Offset) (v : Word) (s : State) : Host.Outcome State Fault Refusal :=
  match regAt off with
  | none => .next s
  | some .serCmd => hostWriteCmd .ser v s
  | some .busCmd => hostWriteCmd .bus v s
  | some .serDeadlineLo => .next (s.setDlLo v)
  | some .serDeadlineHi => .next (s.setDlHi v)
  | some .serStatus => .next s
  | some .serCount => .next s
  | some .serTotal => .next s
  | some .serDiscard => .next s
  | some .serFrameInfo => .next s
  | some .serCheck => .next s
  | some .busStatus => .next s
  | some .busResult => .next s
  | some .busReads => .next s
  | some .timeLo => .next s
  | some .timeHi => .next s

/-- Whether an access has a meaning: 32 bits wide, at a multiple of 4 (20_memory.md R69). -/
def aligned (off : Offset) : Bool := off.toNat % 4 == 0

/-- A HOST access of `bits` bits at `off`: refused where the spec gives it no meaning (43_host_access.md R186; safe,
notes/assumptions/6.md), else `access`. -/
def hostAccess (bits : Nat) (off : Offset) (access : Host.Outcome State Fault Refusal) :
    Host.Outcome State Fault Refusal :=
  if bits ≠ 32 then .refused (.accessWidth bits)
  else if aligned off then access
  else .refused (.misaligned off)

/-! ## SER and BUS -/

/-- SER's move: an idle engine takes no step (60_exceptions.md R215); a busy one takes a step of the command latched in
SER_CMD (20_memory.md R76). -/
def serMove (s : State) : Host.Outcome State Fault Refusal :=
  if s.ser.st.busy then
    match decode .ser s.ser.cmd with
    | .ok i => exec i s
    | .error _ => .fault (.wordNotCommand .ser)
  else .next s

/-- BUS's move, with BUSDEV's answer in `turn`: as for SER, with the command latched in BUS_CMD. -/
def busMove (s : State) : Host.Outcome State Fault Refusal :=
  if s.bus.st.busy then
    match decode .bus s.bus.cmd with
    | .ok i => exec i s
    | .error _ => .fault (.wordNotCommand .bus)
  else .next s

/-! ## One move -/

/-- What a move does, in the state in which it is made. -/
def makeMove (m : Move) (s : State) : Host.Outcome State Fault Refusal :=
  match m with
  | .hostRead bits off => hostAccess bits off (.next (s.setHostV (hostReadValue s off)))
  | .hostWrite bits off v => hostAccess bits off (hostWrite off v s)
  | .ser => serMove s
  | .bus _ => busMove s
  | .clock => .next (s.setNow (s.now + 1))
  | .rxByte b => .next (s.setRxq (s.rxq ++ [b]))
  | .rxErr e => .next (s.setRxErr e)
  | .reset => .next (assertReset s)

/-- The word `w` as the next move: the host's write to the CMD register of the engine whose rows it can match. -/
def placeWord (w : Word) (s : State) : State :=
  { s with pending := .hostWrite 32 (cmdReg (rowEngine w)).offset w :: s.pending }

end Sys2Proof.Machine
end

