-- ==== Sys2Proof/Machine/Step.lean ====
section
/-! DEFINITION. One step of the block: one atomic move of one agent (00_scope.md R11, 20_memory.md R73). -/

namespace Sys2Proof.Machine

/-- One step: the next move is made. -/
def step (s : State) : Host.Outcome State Fault Refusal :=
  makeMove (nextMove s) (takeMove s)

/-- `s` with the command word of a table row as its next move, so that the very next step issues it. A word wider than a
command is none (30_encoding.md R88) and leaves `s` as it is. -/
def State.withFetchWord (s : State) (nbits w : Nat) : State :=
  match tableWord nbits w with
  | some v => placeWord v s
  | none => s

end Sys2Proof.Machine
end

