-- ==== Sys2Proof/Safety.lean ====
section
/-! DEFINITION. What a safe run is, in the terms claims use: the consistency of each engine's fields in every phase, and
the runs of placed moves. -/

namespace Sys2Proof.Machine

/-! ## Runs -/

/-- `s` with moves placed before every other one. -/
def State.place (ms : List Move) (s : State) : State :=
  { s with pending := ms ++ s.pending }

/-- The steps that make the placed moves, one after the other. -/
def runMoves (ms : List Move) (s : State) : Host.Outcome State Fault Refusal :=
  Host.Core.run Sys2Proof.core ms.length (s.place ms)

/-- A step that does not fault. -/
def SafeStep (s : State) : Prop := ∀ f, step s ≠ .fault f

/-! ## What a step may change -/

/-- Nothing but the SER engine, the frame buffer and the channel queue differs. -/
def OnlySerChanged (s t : State) : Prop :=
  t.bus = s.bus ∧ t.dlLo = s.dlLo ∧ t.dlHi = s.dlHi ∧ t.now = s.now ∧ t.buf.epoch = s.buf.epoch ∧ t.rxErr = s.rxErr ∧
  t.busTrace = s.busTrace ∧ t.hostV = s.hostV ∧ t.turn = s.turn ∧ t.pending = s.pending ∧ t.moveCount = s.moveCount

/-- Nothing but the BUS engine and the transactions on the register bus differs. -/
def OnlyBusChanged (s t : State) : Prop :=
  t.ser = s.ser ∧ t.dlLo = s.dlLo ∧ t.dlHi = s.dlHi ∧ t.now = s.now ∧ t.buf = s.buf ∧
  t.rxq = s.rxq ∧ t.rxErr = s.rxErr ∧ t.hostV = s.hostV ∧ t.turn = s.turn ∧ t.pending = s.pending ∧
  t.moveCount = s.moveCount

/-! ## The frame buffer -/

/-- Checksum8 of a byte string: its unsigned sum modulo 256 (00_scope.md R3, R12). -/
def checksum8 : List Byte → Byte
  | [] => 0
  | b :: rest => b + checksum8 rest

/-- The two size bytes of a frame, little-endian (30_encoding.md R90). -/
def declaredSize (f : List Byte) : Nat :=
  match f with
  | _ :: _ :: lo :: hi :: _ => lo.toNat + 256 * hi.toNat
  | _ => 0

/-- A byte string of a frame's shape: start marker first, and as long as it declares, 6 bytes or more
(30_encoding.md R89, R90). -/
def FrameShaped (f : List Byte) : Prop :=
  f.head? = some Config.startMarker ∧ declaredSize f = f.length ∧ 6 ≤ f.length

/-- A valid frame: of a frame's shape, ending with the terminator, with Checksum8 0 over every byte before it
(00_scope.md R3, 30_encoding.md R89). -/
def ValidFrame (f : List Byte) : Prop :=
  FrameShaped f ∧ f.getLast? = some Config.terminator ∧ checksum8 f.dropLast = 0

/-- The buffer holds `l` from index 0 on. -/
def BufHolds (b : FrameBuf) (l : List Byte) : Prop :=
  ∀ i, i < l.length → l[i]? = some (b.byte i)

/-- Checksum8 of `buf[0]` to `buf[n-1]` (00_scope.md R3, R12). -/
def bufSum (b : FrameBuf) : Nat → Byte
  | 0 => 0
  | n + 1 => bufSum b n + b.byte n

/-! ## The SER engine, phase by phase -/

/-- What holds of a `ser.readn` in READN, running or ended (40_exact_reader.md R110 to R114). -/
def ReadnFacts (e : SerEngine) (b : FrameBuf) : Prop :=
  decode .ser e.cmd = .ok (.serReadn e.need) ∧ e.cnt ≤ e.need ∧ e.total = e.cnt ∧
  e.sum = bufSum b e.total.toNat ∧ e.endb = 0 ∧ e.kind = 0 ∧ e.size = 0 ∧ e.discard = 0

/-- What holds of a `ser.frame` in SCAN, running or ended (41_frame_scanner.md R131, R142). -/
def ScanFacts (e : SerEngine) : Prop :=
  decode .ser e.cmd = .ok .serFrame ∧ e.need = 0 ∧ e.cnt = 0 ∧ e.total = 0 ∧ e.sum = 0 ∧
  e.endb = 0 ∧ e.kind = 0 ∧ e.size = 0

/-- What holds of a `ser.frame` in HEADER, running or ended (41_frame_scanner.md R131, R132, R142). -/
def HeaderFacts (e : SerEngine) (b : FrameBuf) : Prop :=
  decode .ser e.cmd = .ok .serFrame ∧ e.need = 3 ∧ e.cnt ≤ 3 ∧ e.total = e.cnt + 1 ∧
  e.sum = bufSum b e.total.toNat ∧ e.endb = 0 ∧ b.byte 0 = Config.startMarker

/-- KIND and SIZE are those of the stored header (41_frame_scanner.md R133). -/
def HeaderRecorded (e : SerEngine) (b : FrameBuf) : Prop :=
  e.kind = b.byte 1 ∧ e.size = frameSize b

/-- What holds of a `ser.frame` from TAIL on (41_frame_scanner.md R133, R134, R142). -/
def TailFacts (e : SerEngine) (b : FrameBuf) : Prop :=
  decode .ser e.cmd = .ok .serFrame ∧ 6 ≤ e.size ∧ HeaderRecorded e b ∧ e.need = e.size - 4 ∧
  e.cnt ≤ e.need ∧ e.total = e.cnt + 4 ∧ b.byte 0 = Config.startMarker

/-- SER is busy in a phase of its command, short of what the phase is to collect (40_exact_reader.md R111); IDLE and
CHECK are no phases of a running command (10_state.md R22, 41_frame_scanner.md R135). -/
def SerRunning (e : SerEngine) (b : FrameBuf) : Prop :=
  match e.phase with
  | .idle => False
  | .scan => ScanFacts e
  | .header => HeaderFacts e b ∧ e.cnt < 3 ∧ e.kind = 0 ∧ e.size = 0
  | .tail => TailFacts e b ∧ e.cnt < e.need ∧ e.sum = bufSum b e.total.toNat ∧ e.endb = 0
  | .check => False
  | .readn => ReadnFacts e b ∧ (e.cnt < e.need ∨ e.need = 0)

/-- A result with which a command ends in a phase that waits for bytes (60_exceptions.md R200). -/
def WaitEnded (st : Status) : Prop :=
  (st.result = .timeout ∨ st.result = .ioError) ∧ st.detail = 0

/-- The result that the terminator and the sum decide in CHECK (41_frame_scanner.md R135, R138). -/
def CheckDecided (e : SerEngine) : Prop :=
  if e.endb ≠ Config.terminator then e.st.result = .invalidFrame ∧ e.st.detail = 1
  else if e.sum ≠ 0 then e.st.result = .checksumMismatch ∧ e.st.detail = 0
  else e.st.result = .ok ∧ e.st.detail = 0

/-- SER's last command has ended in this phase, with this result, and its registers say so (40_exact_reader.md R113,
R114, 41_frame_scanner.md R137, R142, 60_exceptions.md R200, R217). -/
def SerEnded (e : SerEngine) (b : FrameBuf) : Prop :=
  match e.phase with
  | .idle =>
    e.st.result = .illegalCommand ∧ (∃ d, decode .ser e.cmd = .error d ∧ e.st.detail = d.detail) ∧
    e.need = 0 ∧ e.cnt = 0 ∧ e.total = 0 ∧ e.sum = 0 ∧ e.endb = 0 ∧ e.kind = 0 ∧ e.size = 0 ∧ e.discard = 0
  | .scan => ScanFacts e ∧ WaitEnded e.st
  | .header =>
    HeaderFacts e b ∧
    ((e.cnt < 3 ∧ e.kind = 0 ∧ e.size = 0 ∧ WaitEnded e.st) ∨
      (e.cnt = 3 ∧ HeaderRecorded e b ∧ e.size < 6 ∧ e.st.result = .invalidFrame ∧ e.st.detail = 0))
  | .tail =>
    TailFacts e b ∧ e.cnt < e.need ∧ e.sum = bufSum b e.total.toNat ∧ e.endb = 0 ∧
    WaitEnded e.st
  | .check =>
    TailFacts e b ∧ e.cnt = e.need ∧ e.sum = bufSum b (e.size.toNat - 1) ∧
    e.endb = b.byte (e.size.toNat - 1) ∧ CheckDecided e
  | .readn =>
    ReadnFacts e b ∧
    ((e.cnt = e.need ∧ e.st.result = .ok ∧ e.st.detail = 0) ∨
      (e.cnt < e.need ∧ WaitEnded e.st))

/-- The SER engine's fields are consistent: running, or ended, or untouched since reset (10_state.md R25). -/
def SerInv (e : SerEngine) (b : FrameBuf) : Prop :=
  if e.st.busy then e.st.done = false ∧ e.st.result = .ok ∧ e.st.detail = 0 ∧ SerRunning e b
  else if e.st.done then SerEnded e b
  else e = SerEngine.reset

/-- A `ser.readn` of the latched word has just been accepted, with what an accept leaves (40_exact_reader.md R110). -/
def ReadnBegun (s : State) : Prop :=
  s.ser.st.busy = true ∧ s.ser.phase = .readn ∧ decode .ser s.ser.cmd = .ok (.serReadn s.ser.need) ∧
  s.ser.cnt = 0 ∧ s.ser.total = 0 ∧ s.ser.sum = 0 ∧ s.ser.endb = 0

/-- A `ser.frame` has just been accepted, with what an accept leaves (41_frame_scanner.md R130). -/
def FrameBegun (s : State) : Prop :=
  s.ser.st.busy = true ∧ s.ser.phase = .scan ∧ decode .ser s.ser.cmd = .ok .serFrame ∧
  s.ser.need = 0 ∧ s.ser.cnt = 0 ∧ s.ser.total = 0 ∧ s.ser.sum = 0 ∧ s.ser.discard = 0

/-- The channel delivers in time and without error (41_frame_scanner.md R143). -/
def InTime (s : State) : Prop :=
  s.now < s.ser.dl ∧ s.rxErr = false

/-! ## The BUS engine, phase by phase -/

/-- BUS runs, or ran, the conversion its latched word says (42_conversion_poller.md R160). -/
def ConvertFacts (e : BusEngine) : Prop :=
  (decode .bus e.cmd = .ok (.busConvertWind e.maxr) ∧ e.sel = Config.selWind) ∨
  (decode .bus e.cmd = .ok (.busConvertCur e.maxr) ∧ e.sel = Config.selCur)

/-- No read has been performed (42_conversion_poller.md R161). -/
def NoReads (e : BusEngine) : Prop :=
  e.reads = 0 ∧ e.raw16 = 0 ∧ e.stat = 0

/-- Every read so far was not ready, and there were fewer than MAXR (42_conversion_poller.md R162). -/
def StillPolling (e : BusEngine) : Prop :=
  e.reads < e.maxr ∧ (NoReads e ∨ ready e.stat = false)

/-- A conversion of the latched word has just been accepted, with what an accept leaves (42_conversion_poller.md R160). -/
def ConvertBegun (s : State) : Prop :=
  s.bus.st.busy = true ∧ s.bus.phase = .select ∧ ConvertFacts s.bus ∧ NoReads s.bus

/-- BUSDEV's answer to a read as a move of the BUS engine (20_memory.md R66). -/
def readAnswer (b : Byte × Byte × Byte) : Move :=
  .bus (some (.ok b.1 b.2.1 b.2.2))

/-- BUS is busy in a phase of its command (10_state.md R22). -/
def BusRunning (e : BusEngine) : Prop :=
  match e.phase with
  | .idle => False
  | .select => ConvertFacts e ∧ NoReads e
  | .poll => ConvertFacts e ∧ StillPolling e

/-- BUS's last command has ended in this phase, with this result, and its registers say so (42_conversion_poller.md R163,
R164, R168, 60_exceptions.md R200, R217). -/
def BusEnded (e : BusEngine) : Prop :=
  match e.phase with
  | .idle =>
    e.st.result = .illegalCommand ∧ (∃ d, decode .bus e.cmd = .error d ∧ e.st.detail = d.detail) ∧
    NoReads e ∧ e.maxr = 0
  | .select => ConvertFacts e ∧ NoReads e ∧ e.st.result = .ioError ∧ e.st.detail = 0
  | .poll =>
    ConvertFacts e ∧ e.st.detail = 0 ∧
    ((e.st.result = .ok ∧ ready e.stat = true ∧ 1 ≤ e.reads ∧ e.reads ≤ e.maxr) ∨
      (e.st.result = .conversionTimeout ∧ ready e.stat = false ∧ e.reads = e.maxr) ∨
      (e.st.result = .ioError ∧ StillPolling e))

/-- The BUS engine's fields are consistent: running, or ended, or untouched since reset (10_state.md R25). -/
def BusInv (e : BusEngine) : Prop :=
  if e.st.busy then e.st.done = false ∧ e.st.result = .ok ∧ e.st.detail = 0 ∧ BusRunning e
  else if e.st.done then BusEnded e
  else e = BusEngine.reset

/-- The invariant of the whole block. -/
structure Inv (s : State) : Prop where
  buf : Memory.wf s.buf.bytes
  ser : SerInv s.ser s.buf
  bus : BusInv s.bus

end Sys2Proof.Machine
end

