-- ==== Sys2Proof/Machine/Asm.lean ====
section
/-! DEFINITION. The assembler syntax of commands and the pseudo-instructions, as words and as lists of host accesses
(30_encoding.md R95 to R97), and the values that the loops among them give the host. The control flow of a host program
is the host's own, "which the block does not execute" (R96): a loop is a function of the moves that the other agents make
before each of its accesses, one element for each iteration. DESIGN CHOICE, safe: notes/assumptions/15.md. -/

namespace Sys2Proof.Machine

/-- `ser.readn N`, N 0 to 65535; an operand outside its range is refused (30_encoding.md R95). -/
def asmReadn (n : Nat) : Option Word :=
  if n ≤ 65535 then some (encode (.serReadn (BitVec.ofNat 16 n))) else none

/-- `ser.frame` (30_encoding.md R95). -/
def asmFrame : Option Word := some (encode .serFrame)

/-- `bus.convert.wind MAXR`, MAXR 1 to 65535 (30_encoding.md R95). -/
def asmConvertWind (maxr : Nat) : Option Word :=
  if 1 ≤ maxr ∧ maxr ≤ 65535 then some (encode (.busConvertWind (BitVec.ofNat 16 maxr))) else none

/-- `bus.convert.cur MAXR`, MAXR 1 to 65535 (30_encoding.md R95). -/
def asmConvertCur (maxr : Nat) : Option Word :=
  if 1 ≤ maxr ∧ maxr ≤ 65535 then some (encode (.busConvertCur (BitVec.ofNat 16 maxr))) else none

/-- `bus.convert SEL, MAXR`, SEL 0x88 or 0xA8 (30_encoding.md R95). -/
def asmConvert (sel : Byte) (maxr : Nat) : Option Word :=
  if sel = Config.selWind then asmConvertWind maxr
  else if sel = Config.selCur then asmConvertCur maxr
  else none

/-- `rd V, OFF` (30_encoding.md R96). -/
def rd (off : Offset) : Move := .hostRead 32 off

/-- `wr OFF, VALUE` (30_encoding.md R96). -/
def wr (off : Offset) (v : Word) : Move := .hostWrite 32 off v

/-- `issue.ser CMD` and `issue.bus CMD` (30_encoding.md R97). -/
def issueCmd (e : Engine) (w : Word) : List Move := [wr (cmdReg e).offset w]

/-- `setdl D` (30_encoding.md R97). -/
def setdl (d : Time) : List Move :=
  [wr HostReg.serDeadlineLo.offset (d.extractLsb' 0 32), wr HostReg.serDeadlineHi.offset (d.extractLsb' 32 32)]

/-- The STATUS register of an engine (10_state.md R23). -/
def statusReg : Engine → HostReg
  | .ser => .serStatus
  | .bus => .busStatus

/-- The accesses of one iteration of `wait.ser S` or `wait.bus S` (30_encoding.md R97). -/
def waitOnce (e : Engine) : List Move := [rd (statusReg e).offset]

/-- The accesses of one iteration of `rdtime T` (30_encoding.md R97). -/
def rdtimeOnce : List Move :=
  [rd HostReg.timeHi.offset, rd HostReg.timeLo.offset, rd HostReg.timeHi.offset]

/-- `rdbuf V, A`, A a multiple of 4 (30_encoding.md R97). -/
def rdbuf (a : Half) : List Move := [rd ((1 : BitVec 1) ++ a)]

/-! ## The values that host programs form -/

/-- The other agents make the moves `others` and then the host performs `rd V, off` (30_encoding.md R96): V, and the state
after the read. `none` where a move stops. -/
def rdAfter (others : List Move) (off : Offset) (s : State) : Option (Word × State) :=
  match runMoves others s with
  | .next t =>
    match runMoves [rd off] t with
    | .next u => some (u.hostV, u)
    | .fault _ => none
    | .refused _ => none
  | .fault _ => none
  | .refused _ => none

/-- The test of `wait.*`: `if S[0] = 1 goto L` (30_encoding.md R97). -/
def waitDone (v : Word) : Bool := !v.getLsbD 0

/-- `wait.ser S` and `wait.bus S`: S, and the state after its last read (30_encoding.md R97). `none` where the engine is
still busy after these iterations. -/
def waitFor (e : Engine) : List (List Move) → State → Option (Word × State)
  | [], _ => none
  | others :: more, s =>
    match rdAfter others (statusReg e).offset s with
    | some (v, t) => if waitDone v then some (v, t) else waitFor e more t
    | none => none

/-- The end of an iteration of `rdtime`: `if H1 ≠ H2 goto L`, else `T = (H2 << 32) | LO` (30_encoding.md R97). -/
def rdtimeValue (h1 lo h2 : Word) : Option Time :=
  if h1 ≠ h2 then none else some (h2 ++ lo)

/-- One iteration of `rdtime T`, with the moves that the other agents make before each of its three reads: T where it is
formed, and the state after the third read (30_encoding.md R97). -/
def rdtimeIter (others1 others2 others3 : List Move) (s : State) : Option (Option Time × State) :=
  match rdAfter others1 HostReg.timeHi.offset s with
  | none => none
  | some (h1, s1) =>
    match rdAfter others2 HostReg.timeLo.offset s1 with
    | none => none
    | some (lo, s2) =>
      match rdAfter others3 HostReg.timeHi.offset s2 with
      | none => none
      | some (h2, s3) => some (rdtimeValue h1 lo h2, s3)

/-- `rdtime T`: T, and the state after the last read (30_encoding.md R97). `none` where no iteration of these formed it. -/
def rdtime : List (List Move × List Move × List Move) → State → Option (Time × State)
  | [], _ => none
  | (others1, others2, others3) :: more, s =>
    match rdtimeIter others1 others2 others3 s with
    | some (some v, t) => some (v, t)
    | some (none, t) => rdtime more t
    | none => none

end Sys2Proof.Machine
end

