-- ==== Sys2Proof/Certificates/Slice0/Obligations.lean ====
section
/-! DEFINITION. The statements for the provers, each from a numbered rule of the spec. -/

open Sys2Proof Sys2Proof.Machine

/-! ## Encoding -/

/-- Words written out from the encodings of 30_encoding.md R81, R82 (95_test_vectors.md ER-1, ER-11, FS-1, CP-2, CP-1). -/
def Obligations.SampleWordsDecode : Prop :=
  decode .ser 0b00000000000000110000000000000001 = .ok (.serReadn 3) ∧
  decode .ser 0b11111111111111110000000000000001 = .ok (.serReadn 65535) ∧
  decode .ser 0b00000000000000000000000000000010 = .ok .serFrame ∧
  decode .bus 0b00000000000010101000100000000001 = .ok (.busConvertWind 10) ∧
  decode .bus 0b00000000000010101010100000000001 = .ok (.busConvertCur 10)

/-- Decoding a command's word gives the command back, with every operand at every value (30_encoding.md R84, R85, R95). -/
def Obligations.DecodeEncodeRoundTrip : Prop :=
  ∀ i : Instr, i.WellFormed → decode i.engine (encode i) = .ok i

/-- A word that decodes is the word of the command it decodes to, which is well formed and runs on that engine. -/
def Obligations.DecodedWordIsItsEncoding : Prop :=
  ∀ (e : Engine) (w : Word) (i : Instr), decode e w = .ok i → encode i = w ∧ i.WellFormed ∧ i.engine = e

/-- The opcode map: what each engine's words are, by their bits (30_encoding.md R84, R85). -/
def Obligations.OpcodeMap : Prop :=
  ∀ (w : Word) (n : Half),
    (decode .ser w = .ok (.serReadn n) ↔ w.extractLsb' 0 16 = 0x0001 ∧ w.extractLsb' 16 16 = n) ∧
    (decode .ser w = .ok .serFrame ↔ w.extractLsb' 0 16 = 0x0002 ∧ w.extractLsb' 16 16 = (0 : Half)) ∧
    (decode .bus w = .ok (.busConvertWind n) ↔
      w.extractLsb' 0 16 = 0x8801 ∧ w.extractLsb' 16 16 = n ∧ n ≠ 0) ∧
    (decode .bus w = .ok (.busConvertCur n) ↔
      w.extractLsb' 0 16 = 0xA801 ∧ w.extractLsb' 16 16 = n ∧ n ≠ 0)

/-- No word is legal for both engines, and the engine of a legal word is the one `withFetchWord` writes it to. -/
def Obligations.LegalWordsHaveOneEngine : Prop :=
  ∀ (e : Engine) (w : Word) (i : Instr), decode e w = .ok i → rowEngine w = e

/-- The words the assembler makes, operands outside their range refused (30_encoding.md R95). -/
def Obligations.AssemblerWords : Prop :=
  (∀ n, asmReadn n = if n ≤ 65535 then some (BitVec.ofNat 32 (n * 65536 + 0x0001)) else none) ∧
  asmFrame = some 0x00000002 ∧
  (∀ m, asmConvertWind m =
    if 1 ≤ m ∧ m ≤ 65535 then some (BitVec.ofNat 32 (m * 65536 + 0x8801)) else none) ∧
  (∀ m, asmConvertCur m =
    if 1 ≤ m ∧ m ≤ 65535 then some (BitVec.ofNat 32 (m * 65536 + 0xA801)) else none) ∧
  (∀ (sel : Byte) (m : Nat), asmConvert sel m =
    if (sel = 0x88 ∨ sel = 0xA8) ∧ 1 ≤ m ∧ m ≤ 65535 then
      some (BitVec.ofNat 32 (m * 65536 + sel.toNat * 256 + 0x01)) else none)

/-! ## One step -/

/-- A step runs the decoded command: the one HOST writes to a CMD register, or the one a busy engine has latched, in the
state in which the move is made, with nothing around exec (43_host_access.md R183, 20_memory.md R76). That state differs
only in which moves are to come and in `turn`. -/
def Obligations.StepRunsDecodedCommand : Prop :=
  (∀ (s : State) (e : Engine) (w : Word) (i : Instr),
    nextMove s = .hostWrite 32 (cmdReg e).offset w → decode e w = .ok i → step s = exec i (takeMove s)) ∧
  (∀ (s : State) (i : Instr),
    nextMove s = .ser → s.ser.st.busy = true → decode .ser s.ser.cmd = .ok i → step s = exec i (takeMove s)) ∧
  (∀ (s : State) (a : Option BusAnswer) (i : Instr),
    nextMove s = .bus a → s.bus.st.busy = true → decode .bus s.bus.cmd = .ok i → step s = exec i (takeMove s)) ∧
  (∀ (s : State) (m : Move) (rest : List Move), s.pending = m :: rest →
    nextMove s = m ∧ takeMove s = { s with pending := rest, turn := m.turn }) ∧
  (∀ s : State, s.pending = [] →
    takeMove s = { s with moveCount := s.moveCount + 1, turn := (nextMove s).turn })

/-- The word of a well-formed command, placed by `withFetchWord`, is issued by the very next step, from any state. -/
def Obligations.FetchWordIsIssuedNext : Prop :=
  ∀ (i : Instr) (s : State), i.WellFormed →
    decodeTableWord 32 (encode i).toNat = some i ∧
    step (s.withFetchWord 32 (encode i).toNat) = exec i { s with turn := .issue }

/-! ## Reset -/

/-- What the reset state shows on the host port: 0 in every register and at every unmapped offset, engines idle
(70_reset_and_hazards.md R231; 95_test_vectors.md HA-1). -/
def Obligations.ResetStateReadsZero : Prop :=
  (∀ off : Offset, off.toNat < 0x10000 → hostReadValue State.reset off = 0) ∧
  State.reset.ser.st.busy = false ∧ State.reset.ser.phase = .idle ∧ State.reset.ser.dl = 0 ∧
  State.reset.bus.st.busy = false ∧ State.reset.bus.phase = .idle ∧ State.reset.bus.sel = 0

/-- Asserting reset, in any state, puts every register and engine field to 0 and leaves the channel and the transactions
already performed as they are (70_reset_and_hazards.md R231). -/
def Obligations.ResetClearsBlock : Prop :=
  ∀ s : State, nextMove s = .reset →
    ∃ t, step s = .next t ∧
      (∀ r : HostReg, regValue t r = 0) ∧
      t.ser = { cmd := 0, st := { busy := false, done := false, rej := false, result := .ok, detail := 0 },
                phase := .idle, dl := 0, need := 0, cnt := 0, total := 0, sum := 0, endb := 0, kind := 0, size := 0,
                discard := 0 } ∧
      t.bus = { cmd := 0, st := { busy := false, done := false, rej := false, result := .ok, detail := 0 },
                phase := .idle, sel := 0, maxr := 0, reads := 0, raw16 := 0, stat := 0 } ∧
      t.now = 0 ∧ t.rxq = s.rxq ∧ t.rxErr = s.rxErr ∧ t.busTrace = s.busTrace

/-! ## Invariants -/

/-- Every step keeps the invariant of the whole block: the buffer's form and, in every phase, the consistency of each
engine's registers with what was stored and read. -/
def Obligations.StepKeepsInv : Prop :=
  ∀ s t : State, Inv s → step s = .next t → Inv t

/-- The invariant holds at reset. -/
def Obligations.ResetHasInv : Prop := Inv State.reset

/-- Every step keeps the frame buffer in its canonical form, from any state in which it has it. -/
def Obligations.StepKeepsBufferForm : Prop :=
  ∀ s t : State, Memory.wf s.buf.bytes → step s = .next t → Memory.wf t.buf.bytes

/-- No step faults where the invariant holds (20_memory.md R72: no access ever faults). -/
def Obligations.NoStepFaults : Prop :=
  ∀ s : State, Inv s → ∀ f, step s ≠ .fault f

/-- A step is refused exactly where the next move is a HOST access that is not 32 bits wide or not at a multiple of 4
(43_host_access.md R186). -/
def Obligations.OnlyMisshapenAccessesRefused : Prop :=
  ∀ s : State,
    (∃ r, step s = .refused r) ↔
      (∃ bits off, (nextMove s = .hostRead bits off ∨ ∃ v, nextMove s = .hostWrite bits off v) ∧
        (bits ≠ 32 ∨ off.toNat % 4 ≠ 0))

/-- A running command's phases come in their order and none comes back: SCAN, HEADER, TAIL, CHECK; READN only; SELECT,
POLL (10_state.md R22). -/
def Obligations.PhasesRunInOrder : Prop :=
  ∀ s t : State, step s = .next t → nextMove s ≠ .reset →
    (s.ser.st.busy = true →
      t.ser.phase = s.ser.phase ∨ (s.ser.phase = .scan ∧ t.ser.phase = .header) ∨
      (s.ser.phase = .header ∧ t.ser.phase = .tail) ∨ (s.ser.phase = .tail ∧ t.ser.phase = .check)) ∧
    (s.bus.st.busy = true →
      t.bus.phase = s.bus.phase ∨ (s.bus.phase = .select ∧ t.bus.phase = .poll))

/-! ## The host port -/

/-- The fields of every register at their bit positions, reserved bits 0 (43_host_access.md R181; 10_state.md R25, R30,
R31, R33, R34, R36 to R38). -/
def Obligations.RegisterFields : Prop :=
  ∀ s : State,
    ((regValue s .serStatus).extractLsb' 0 1 = BitVec.ofBool s.ser.st.busy ∧
      (regValue s .serStatus).extractLsb' 1 1 = BitVec.ofBool s.ser.st.done ∧
      (regValue s .serStatus).extractLsb' 2 1 = BitVec.ofBool s.ser.st.rej ∧
      (regValue s .serStatus).extractLsb' 3 1 = (0 : BitVec 1) ∧
      (regValue s .serStatus).extractLsb' 4 4 = s.ser.st.result.code ∧
      (regValue s .serStatus).extractLsb' 8 4 = s.ser.phase.code ∧
      (regValue s .serStatus).extractLsb' 12 2 = s.ser.st.detail ∧
      (regValue s .serStatus).extractLsb' 14 18 = (0 : BitVec 18)) ∧
    ((regValue s .busStatus).extractLsb' 0 1 = BitVec.ofBool s.bus.st.busy ∧
      (regValue s .busStatus).extractLsb' 1 1 = BitVec.ofBool s.bus.st.done ∧
      (regValue s .busStatus).extractLsb' 2 1 = BitVec.ofBool s.bus.st.rej ∧
      (regValue s .busStatus).extractLsb' 3 1 = (0 : BitVec 1) ∧
      (regValue s .busStatus).extractLsb' 4 4 = s.bus.st.result.code ∧
      (regValue s .busStatus).extractLsb' 8 4 = s.bus.phase.code ∧
      (regValue s .busStatus).extractLsb' 12 2 = s.bus.st.detail ∧
      (regValue s .busStatus).extractLsb' 14 18 = (0 : BitVec 18)) ∧
    ((regValue s .serCount).extractLsb' 0 16 = s.ser.cnt ∧ (regValue s .serCount).extractLsb' 16 16 = s.ser.need) ∧
    ((regValue s .serTotal).extractLsb' 0 16 = s.ser.total ∧
      (regValue s .serTotal).extractLsb' 16 16 = (0 : Half)) ∧
    ((regValue s .serFrameInfo).extractLsb' 0 8 = s.ser.kind ∧
      (regValue s .serFrameInfo).extractLsb' 8 8 = (0 : Byte) ∧
      (regValue s .serFrameInfo).extractLsb' 16 16 = s.ser.size) ∧
    ((regValue s .serCheck).extractLsb' 0 8 = s.ser.sum ∧ (regValue s .serCheck).extractLsb' 8 8 = s.ser.endb ∧
      (regValue s .serCheck).extractLsb' 16 16 = (0 : Half)) ∧
    ((regValue s .busResult).extractLsb' 0 16 = s.bus.raw16 ∧
      (regValue s .busResult).extractLsb' 16 8 = s.bus.stat ∧
      (regValue s .busResult).extractLsb' 24 8 = (0 : Byte)) ∧
    ((regValue s .busReads).extractLsb' 0 16 = s.bus.reads ∧
      (regValue s .busReads).extractLsb' 16 16 = s.bus.maxr) ∧
    ((regValue s .timeHi ++ regValue s .timeLo : BitVec 64) = s.now) ∧
    (regValue s .serCmd = s.ser.cmd ∧ regValue s .busCmd = s.bus.cmd ∧ regValue s .serDeadlineLo = s.dlLo ∧
      regValue s .serDeadlineHi = s.dlHi ∧ regValue s .serDiscard = s.ser.discard)

/-- A HOST read returns the register at its offset, the window's four bytes little-endian, or 0, and changes no state of
the block (43_host_access.md R180, 20_memory.md R62, R71). -/
def Obligations.HostReadReturnsLiveValue : Prop :=
  ∀ (s : State) (off : Offset), nextMove s = .hostRead 32 off → off.toNat % 4 = 0 →
    ∃ v, step s = .next ((takeMove s).setHostV v) ∧
      (∀ r : HostReg, off = r.offset → v = regValue s r) ∧
      (0x10000 ≤ off.toNat →
        v.extractLsb' 0 8 = s.buf.byte (off.toNat - 0x10000) ∧
        v.extractLsb' 8 8 = s.buf.byte (off.toNat - 0x10000 + 1) ∧
        v.extractLsb' 16 8 = s.buf.byte (off.toNat - 0x10000 + 2) ∧
        v.extractLsb' 24 8 = s.buf.byte (off.toNat - 0x10000 + 3)) ∧
      (off.toNat < 0x10000 → (∀ r : HostReg, off ≠ r.offset) → v = 0)

/-- A HOST write to a read-only register, to the window or to an unmapped offset changes no state, and a read of an
unmapped offset returns 0 (43_host_access.md R185). -/
def Obligations.OtherWritesIgnored : Prop :=
  (∀ (s : State) (off : Offset) (v : Word), nextMove s = .hostWrite 32 off v → off.toNat % 4 = 0 →
    off ≠ 0x000 → off ≠ 0x008 → off ≠ 0x00C → off ≠ 0x100 → step s = .next (takeMove s)) ∧
  (∀ (s : State) (off : Offset), off.toNat < 0x10000 → (∀ r : HostReg, off ≠ r.offset) → hostReadValue s off = 0)

/-- The deadline registers: written, they read back as written and leave the running command's deadline alone; any word
SER accepts latches them; at reset they are 0 (10_state.md R29). -/
def Obligations.DeadlineIsWrittenThenLatched : Prop :=
  (∀ (s : State) (v : Word), nextMove s = .hostWrite 32 0x008 v →
    ∃ t, step s = .next t ∧ t = (takeMove s).setDlLo v ∧ hostReadValue t 0x008 = v ∧ t.ser.dl = s.ser.dl) ∧
  (∀ (s : State) (v : Word), nextMove s = .hostWrite 32 0x00C v →
    ∃ t, step s = .next t ∧ t = (takeMove s).setDlHi v ∧ hostReadValue t 0x00C = v ∧ t.ser.dl = s.ser.dl) ∧
  (∀ (s : State) (w : Word), nextMove s = .hostWrite 32 0x000 w → s.ser.st.busy = false →
    ∃ t, step s = .next t ∧ t.ser.dl = s.dlHi ++ s.dlLo ∧ t.dlLo = s.dlLo ∧ t.dlHi = s.dlHi) ∧
  State.reset.dlLo = 0 ∧ State.reset.dlHi = 0

/-! ## Issuing a command -/

/-- Any word written to a busy engine's CMD register changes nothing but REJ, and REJ stays 1 until a word is accepted
(or reset) (43_host_access.md R184). -/
def Obligations.CommandWhileBusyIsIgnored : Prop :=
  (∀ (s : State) (w : Word), nextMove s = .hostWrite 32 0x000 w → s.ser.st.busy = true →
    step s = .next ((takeMove s).setSer { s.ser with st := { s.ser.st with rej := true } })) ∧
  (∀ (s : State) (w : Word), nextMove s = .hostWrite 32 0x100 w → s.bus.st.busy = true →
    step s = .next ((takeMove s).setBus { s.bus with st := { s.bus.st with rej := true } })) ∧
  (∀ s t : State, step s = .next t → s.ser.st.rej = true → t.ser.st.rej = false →
    nextMove s = .reset ∨ (s.ser.st.busy = false ∧ ∃ w, nextMove s = .hostWrite 32 0x000 w)) ∧
  (∀ s t : State, step s = .next t → s.bus.st.rej = true → t.bus.st.rej = false →
    nextMove s = .reset ∨ (s.bus.st.busy = false ∧ ∃ w, nextMove s = .hostWrite 32 0x100 w))

/-- A word that matches no row of the opcode map ends at once with ILLEGAL_COMMAND, with the DETAIL of the first check
that fails, PHASE = IDLE, cleared result registers, and no channel or bus activity: nothing but the engine changes
(30_encoding.md R86, 60_exceptions.md R217). -/
def Obligations.IllegalWordEndsAtOnce : Prop :=
  (∀ (s : State) (w : Word), nextMove s = .hostWrite 32 0x000 w → s.ser.st.busy = false →
    ¬ (w.extractLsb' 0 16 = (0x0001 : Half) ∨ w = 0x00000002) →
    step s = .next ((takeMove s).setSer
      { cmd := w
        st := { busy := false, done := true, rej := false, result := .illegalCommand
                detail := if w.extractLsb' 0 4 ≠ (1 : BitVec 4) ∧ w.extractLsb' 0 4 ≠ (2 : BitVec 4) then 0 else 1 }
        phase := .idle, dl := s.dlHi ++ s.dlLo, need := 0, cnt := 0, total := 0, sum := 0, endb := 0, kind := 0,
        size := 0, discard := 0 })) ∧
  (∀ (s : State) (w : Word), nextMove s = .hostWrite 32 0x100 w → s.bus.st.busy = false →
    ¬ ((w.extractLsb' 0 16 = (0x8801 : Half) ∨ w.extractLsb' 0 16 = (0xA801 : Half)) ∧
      w.extractLsb' 16 16 ≠ (0 : Half)) →
    step s = .next ((takeMove s).setBus
      { cmd := w
        st := { busy := false, done := true, rej := false, result := .illegalCommand
                detail := if w.extractLsb' 0 4 ≠ (1 : BitVec 4) then 0
                          else if w.extractLsb' 4 4 ≠ (0 : BitVec 4) then 1 else 2 }
        phase := .idle, sel := w.extractLsb' 8 8, maxr := 0, reads := 0, raw16 := 0, stat := 0 }))

/-- `ser.readn N` issued to an idle SER engine is accepted, for every N: the whole next state (40_exact_reader.md R110,
43_host_access.md R183). -/
def Obligations.ReadnIsAccepted : Prop :=
  ∀ (n : Half) (s : State), s.turn = .issue → s.ser.st.busy = false →
    exec (.serReadn n) s = .next (s.setSer
      { cmd := n ++ (0x0001 : Half)
        st := { busy := true, done := false, rej := false, result := .ok, detail := 0 }
        phase := .readn, dl := s.dlHi ++ s.dlLo, need := n, cnt := 0, total := 0, sum := 0, endb := 0, kind := 0,
        size := 0, discard := 0 })

/-- `ser.frame` issued to an idle SER engine is accepted: the whole next state (41_frame_scanner.md R130,
43_host_access.md R183). -/
def Obligations.FrameIsAccepted : Prop :=
  ∀ s : State, s.turn = .issue → s.ser.st.busy = false →
    exec .serFrame s = .next (s.setSer
      { cmd := 0x00000002
        st := { busy := true, done := false, rej := false, result := .ok, detail := 0 }
        phase := .scan, dl := s.dlHi ++ s.dlLo, need := 0, cnt := 0, total := 0, sum := 0, endb := 0, kind := 0,
        size := 0, discard := 0 })

/-- `bus.convert.wind MAXR` and `bus.convert.cur MAXR` issued to an idle BUS engine are accepted for MAXR 1 to 65535: the
whole next state; MAXR = 0 is ILLEGAL_COMMAND with DETAIL 2 (42_conversion_poller.md R160, 43_host_access.md R183). -/
def Obligations.ConvertIsAccepted : Prop :=
  ∀ (m : Half) (s : State), s.turn = .issue → s.bus.st.busy = false →
    (m ≠ 0 →
      exec (.busConvertWind m) s = .next (s.setBus
        { cmd := m ++ (0x8801 : Half)
          st := { busy := true, done := false, rej := false, result := .ok, detail := 0 }
          phase := .select, sel := 0x88, maxr := m, reads := 0, raw16 := 0, stat := 0 }) ∧
      exec (.busConvertCur m) s = .next (s.setBus
        { cmd := m ++ (0xA801 : Half)
          st := { busy := true, done := false, rej := false, result := .ok, detail := 0 }
          phase := .select, sel := 0xA8, maxr := m, reads := 0, raw16 := 0, stat := 0 })) ∧
    (m = 0 →
      exec (.busConvertWind m) s = .next (s.setBus
        { cmd := 0x00008801
          st := { busy := false, done := true, rej := false, result := .illegalCommand, detail := 2 }
          phase := .idle, sel := 0x88, maxr := 0, reads := 0, raw16 := 0, stat := 0 }) ∧
      exec (.busConvertCur m) s = .next (s.setBus
        { cmd := 0x0000A801
          st := { busy := false, done := true, rej := false, result := .illegalCommand, detail := 2 }
          phase := .idle, sel := 0xA8, maxr := 0, reads := 0, raw16 := 0, stat := 0 }))

/-- A HOST write of a legal word to an idle engine leaves that command just begun, the premise of the statements about
whole commands (43_host_access.md R183). -/
def Obligations.AcceptedCommandHasBegun : Prop :=
  (∀ (s : State) (w : Word) (n : Half), nextMove s = .hostWrite 32 0x000 w → s.ser.st.busy = false →
    decode .ser w = .ok (.serReadn n) → ∃ t, step s = .next t ∧ ReadnBegun t ∧ t.ser.need = n ∧ t.ser.cmd = w) ∧
  (∀ (s : State) (w : Word), nextMove s = .hostWrite 32 0x000 w → s.ser.st.busy = false →
    decode .ser w = .ok .serFrame → ∃ t, step s = .next t ∧ FrameBegun t ∧ t.ser.cmd = w) ∧
  (∀ (s : State) (w : Word) (m : Half), nextMove s = .hostWrite 32 0x100 w → s.bus.st.busy = false →
    decode .bus w = .ok (.busConvertWind m) →
    ∃ t, step s = .next t ∧ ConvertBegun t ∧ t.bus.maxr = m ∧ t.bus.sel = 0x88 ∧ t.bus.cmd = w) ∧
  (∀ (s : State) (w : Word) (m : Half), nextMove s = .hostWrite 32 0x100 w → s.bus.st.busy = false →
    decode .bus w = .ok (.busConvertCur m) →
    ∃ t, step s = .next t ∧ ConvertBegun t ∧ t.bus.maxr = m ∧ t.bus.sel = 0xA8 ∧ t.bus.cmd = w)

/-! ## Ending a command -/

/-- Ending a command writes the status fields and nothing else, and an idle engine takes no step (60_exceptions.md
R203). -/
def Obligations.RaiseEndsTheCommand : Prop :=
  (∀ (r : Result) (d : BitVec 2) (s : State),
    raiseSer r d s = s.setSer
      { s.ser with st := { busy := false, done := true, rej := s.ser.st.rej, result := r, detail := d } } ∧
    raiseBus r d s = s.setBus
      { s.bus with st := { busy := false, done := true, rej := s.bus.st.rej, result := r, detail := d } }) ∧
  (∀ s : State, nextMove s = .ser → s.ser.st.busy = false → step s = .next (takeMove s)) ∧
  (∀ (s : State) (a : Option BusAnswer), nextMove s = .bus a → s.bus.st.busy = false → step s = .next (takeMove s))

/-- Once an engine is idle, its registers and the buffer stay as they are until its CMD register is written or reset is
asserted (20_memory.md R74). -/
def Obligations.ResultsStayUntilNextCommand : Prop :=
  ∀ s t : State, step s = .next t → nextMove s ≠ .reset →
    (s.ser.st.busy = false → (∀ w, nextMove s ≠ .hostWrite 32 0x000 w) →
      t.ser = s.ser ∧ ∀ i, t.buf.byte i = s.buf.byte i) ∧
    (s.bus.st.busy = false → (∀ w, nextMove s ≠ .hostWrite 32 0x100 w) → t.bus = s.bus)

/-! ## The Exact Reader -/

/-- The Exact Reader step in READN, HEADER and TAIL: completion, then deadline, then channel error, then a byte, then a
wait, the completion in the same step as the last byte (40_exact_reader.md R111). -/
def Obligations.ExactReaderStepOrder : Prop :=
  ∀ (i : Instr) (done : State → State) (s : State) (a : Option BusAnswer), s.turn = .engine a →
    ((∃ n, i = .serReadn n) ∧ s.ser.phase = .readn ∧ done = readnDone ∨
      i = .serFrame ∧ s.ser.phase = .header ∧ done = headerDone ∨
      i = .serFrame ∧ s.ser.phase = .tail ∧ done = tailDone) →
    (s.ser.cnt = s.ser.need → exec i s = .next (done s)) ∧
    (s.ser.cnt ≠ s.ser.need → s.ser.dl.toNat ≤ s.now.toNat → exec i s = .next (raiseSer .timeout 0 s)) ∧
    (s.ser.cnt ≠ s.ser.need → s.now.toNat < s.ser.dl.toNat → s.rxErr = true →
      exec i s = .next (raiseSer .ioError 0 s)) ∧
    (s.ser.cnt ≠ s.ser.need → s.now.toNat < s.ser.dl.toNat → s.rxErr = false → s.rxq = [] → exec i s = .next s) ∧
    (∀ b rest, s.ser.cnt ≠ s.ser.need → s.now.toNat < s.ser.dl.toNat → s.rxErr = false → s.rxq = b :: rest →
      (s.ser.cnt + 1 = s.ser.need → exec i s = .next (done (erStore b (s.setRxq rest)))) ∧
      (s.ser.cnt + 1 ≠ s.ser.need → exec i s = .next (erStore b (s.setRxq rest))))

/-- Every byte an Exact Reader step takes is stored at `ser.total`, counted, and summed but for the terminator
(40_exact_reader.md R112). -/
def Obligations.ByteIsStoredAndCounted : Prop :=
  ∀ (b : Byte) (s : State),
    (erStore b s).buf.byte s.ser.total.toNat = b ∧
    (∀ i, i ≠ s.ser.total.toNat → (erStore b s).buf.byte i = s.buf.byte i) ∧
    (s.ser.phase = .readn ∨ s.ser.phase = .header ∨
      (s.ser.phase = .tail ∧ s.ser.total.toNat + 2 ≤ s.ser.size.toNat) →
      (erStore b s).ser =
        { s.ser with sum := s.ser.sum + b, total := s.ser.total + 1, cnt := s.ser.cnt + 1 }) ∧
    (s.ser.phase = .tail → s.ser.size.toNat < s.ser.total.toNat + 2 →
      (erStore b s).ser = { s.ser with total := s.ser.total + 1, cnt := s.ser.cnt + 1 }) ∧
    (erStore b s).rxq = s.rxq ∧ OnlySerChanged s (erStore b s)

/-- `ser.readn` completes in the step that takes its last byte, and with N = 0 in its first step, taking none: OK, with
the whole next state (40_exact_reader.md R110, R113). -/
def Obligations.ReadnCompletes : Prop :=
  (∀ (n : Half) (s : State) (a : Option BusAnswer) (b : Byte) (rest : List Byte),
    s.turn = .engine a → s.ser.st.busy = true → s.ser.phase = .readn → s.ser.cnt + 1 = s.ser.need →
    s.now < s.ser.dl → s.rxErr = false → s.rxq = b :: rest →
    exec (.serReadn n) s = .next (((s.setRxq rest).setBuf (s.buf.memWrite s.ser.total.toNat b)).setSer
      { s.ser with
        st := { busy := false, done := true, rej := s.ser.st.rej, result := .ok, detail := 0 }
        sum := s.ser.sum + b, total := s.ser.total + 1, cnt := s.ser.need })) ∧
  (∀ (n : Half) (s : State) (a : Option BusAnswer),
    s.turn = .engine a → s.ser.st.busy = true → s.ser.phase = .readn → s.ser.need = 0 → s.ser.cnt = 0 →
    exec (.serReadn n) s = .next (s.setSer
      { s.ser with st := { busy := false, done := true, rej := s.ser.st.rej, result := .ok, detail := 0 } }))

/-- A SER command still short of its bytes ends with TIMEOUT in the phase it waits in, at its first step with
`now >= ser.dl`, unsigned, whatever the channel holds, taking no byte and keeping every count (60_exceptions.md R201,
40_exact_reader.md R114, 41_frame_scanner.md R131). -/
def Obligations.DeadlineEndsTheWait : Prop :=
  ∀ (s : State) (i : Instr), nextMove s = .ser → s.ser.st.busy = true → decode .ser s.ser.cmd = .ok i →
    s.ser.dl.toNat ≤ s.now.toNat →
    ((∃ n, i = .serReadn n) ∧ s.ser.phase = .readn ∧ s.ser.cnt ≠ s.ser.need ∨
      i = .serFrame ∧ s.ser.phase = .scan ∨
      i = .serFrame ∧ (s.ser.phase = .header ∨ s.ser.phase = .tail) ∧ s.ser.cnt ≠ s.ser.need) →
    step s = .next ((takeMove s).setSer
      { s.ser with st := { busy := false, done := true, rej := s.ser.st.rej, result := .timeout, detail := 0 } })

/-- A SER step that would take a byte ends with IO_ERROR while `rx_err` is 1, and a BUS step whose transaction returns
ERR ends with IO_ERROR; neither changes a count (60_exceptions.md R202). -/
def Obligations.ChannelOrBusErrorEndsTheCommand : Prop :=
  (∀ (s : State) (i : Instr), nextMove s = .ser → s.ser.st.busy = true → decode .ser s.ser.cmd = .ok i →
    s.now < s.ser.dl → s.rxErr = true →
    ((∃ n, i = .serReadn n) ∧ s.ser.phase = .readn ∧ s.ser.cnt ≠ s.ser.need ∨
      i = .serFrame ∧ s.ser.phase = .scan ∨
      i = .serFrame ∧ (s.ser.phase = .header ∨ s.ser.phase = .tail) ∧ s.ser.cnt ≠ s.ser.need) →
    step s = .next ((takeMove s).setSer
      { s.ser with st := { busy := false, done := true, rej := s.ser.st.rej, result := .ioError, detail := 0 } })) ∧
  (∀ (s : State) (i : Instr) (op : BusOp), nextMove s = .bus (some .err) → decode .bus s.bus.cmd = .ok i →
    inFlight s = some op →
    step s = .next ((busPerform op (takeMove s)).setBus
      { s.bus with st := { busy := false, done := true, rej := s.bus.st.rej, result := .ioError, detail := 0 } }))

/-- `ser.readn N` over a channel that holds N bytes or more reads exactly N, for every N: OK after N engine steps (one for
N = 0), the bytes in the buffer in arrival order and nothing after them touched, COUNT = TOTAL = NEED = N, SUM their
Checksum8, ENDB = 0, PHASE = READN, and the rest left in the channel (40_exact_reader.md R113). -/
def Obligations.ReadnReadsExactlyN : Prop :=
  ∀ (s : State) (l rest : List Byte), ReadnBegun s → InTime s → l.length = s.ser.need.toNat → s.rxq = l ++ rest →
    ∃ t, runMoves (List.replicate (max l.length 1) .ser) s = .next t ∧
      t.ser = { s.ser with
        st := { busy := false, done := true, rej := s.ser.st.rej, result := .ok, detail := 0 }
        phase := .readn, cnt := s.ser.need, total := s.ser.need, sum := checksum8 l, endb := 0 } ∧
      t.rxq = rest ∧ BufHolds t.buf l ∧ (∀ i, l.length ≤ i → t.buf.byte i = s.buf.byte i) ∧
      t.bus = s.bus ∧ t.now = s.now ∧ t.pending = s.pending

/-- Bounded progress of SER: a running command, in any consistent state before its deadline, has ended after the CLOCK
steps to its deadline and one engine step, with TIMEOUT where it was still short of bytes, whatever the channel holds
(40_exact_reader.md R115, 70_reset_and_hazards.md R244). -/
def Obligations.SerCommandEndsByItsDeadline : Prop :=
  ∀ s : State, Inv s → s.ser.st.busy = true → s.now ≤ s.ser.dl →
    ∃ t, runMoves (List.replicate (s.ser.dl.toNat - s.now.toNat) .clock ++ [.ser]) s = .next t ∧
      t.ser.st.busy = false ∧ t.ser.st.done = true ∧ t.ser.phase = s.ser.phase ∧ t.ser.cnt = s.ser.cnt ∧
      t.rxq = s.rxq ∧
      t.ser.st.result = (if s.ser.phase = .readn ∧ s.ser.need = 0 then .ok else .timeout)

/-! ## The Frame Scanner -/

/-- One step of SCAN: deadline, then channel error, then a byte: the start marker is stored at index 0 and begins the
header, any other byte is counted and dropped; else a wait. COUNT and TOTAL are 0 in SCAN, so a TIMEOUT there reports 0
(41_frame_scanner.md R131). -/
def Obligations.ScanStepOrder : Prop :=
  (∀ s : State, Inv s → s.ser.st.busy = true → s.ser.phase = .scan → s.ser.cnt = 0 ∧ s.ser.total = 0) ∧
  ∀ (s : State) (a : Option BusAnswer), s.turn = .engine a → s.ser.phase = .scan →
    (s.ser.dl.toNat ≤ s.now.toNat → exec .serFrame s = .next (raiseSer .timeout 0 s)) ∧
    (s.now.toNat < s.ser.dl.toNat → s.rxErr = true → exec .serFrame s = .next (raiseSer .ioError 0 s)) ∧
    (s.now.toNat < s.ser.dl.toNat → s.rxErr = false → s.rxq = [] → exec .serFrame s = .next s) ∧
    (∀ b rest, s.now.toNat < s.ser.dl.toNat → s.rxErr = false → s.rxq = b :: rest →
      (b = 0x7B → exec .serFrame s = .next (((s.setRxq rest).setBuf (s.buf.memWrite 0 b)).setSer
        { s.ser with total := 1, sum := 0x7B, phase := .header, need := 3, cnt := 0 })) ∧
      (b ≠ 0x7B → exec .serFrame s = .next ((s.setRxq rest).setSer
        { s.ser with discard := if s.ser.discard = 0xFFFFFFFF then 0xFFFFFFFF else s.ser.discard + 1 })))

/-- The step that stores the third header byte records KIND and SIZE, little-endian, and either ends with INVALID_FRAME,
DETAIL 0 (size < 6), or enters TAIL for `size - 4` bytes (41_frame_scanner.md R133). -/
def Obligations.HeaderCompletes : Prop :=
  ∀ (s : State) (a : Option BusAnswer) (hi : Byte) (rest : List Byte),
    s.turn = .engine a → s.ser.st.busy = true → s.ser.phase = .header → s.ser.need = 3 → s.ser.cnt = 2 →
    s.ser.total = 3 → s.now < s.ser.dl → s.rxErr = false → s.rxq = hi :: rest →
    (((hi ++ s.buf.byte 2 : Half)).toNat < 6 →
      exec .serFrame s = .next (((s.setRxq rest).setBuf (s.buf.memWrite 3 hi)).setSer
        { s.ser with
          st := { busy := false, done := true, rej := s.ser.st.rej, result := .invalidFrame, detail := 0 }
          sum := s.ser.sum + hi, total := 4, cnt := 3, kind := s.buf.byte 1, size := hi ++ s.buf.byte 2 })) ∧
    (6 ≤ ((hi ++ s.buf.byte 2 : Half)).toNat →
      exec .serFrame s = .next (((s.setRxq rest).setBuf (s.buf.memWrite 3 hi)).setSer
        { s.ser with
          sum := s.ser.sum + hi, total := 4, cnt := 0, kind := s.buf.byte 1, size := hi ++ s.buf.byte 2
          phase := .tail, need := (hi ++ s.buf.byte 2 : Half) - 4 }))

/-- The step that stores the last tail byte ends the command in CHECK: INVALID_FRAME with DETAIL 1 where that byte is not
the terminator, else CHECKSUM_MISMATCH where the sum is not 0, else OK (41_frame_scanner.md R135, R138). -/
def Obligations.FrameCompletes : Prop :=
  ∀ (s : State) (a : Option BusAnswer) (b : Byte) (rest : List Byte),
    s.turn = .engine a → s.ser.st.busy = true → s.ser.phase = .tail → s.ser.cnt + 1 = s.ser.need →
    6 ≤ s.ser.size → s.ser.total = s.ser.size - 1 → s.now < s.ser.dl → s.rxErr = false → s.rxq = b :: rest →
    exec .serFrame s = .next (((s.setRxq rest).setBuf (s.buf.memWrite s.ser.total.toNat b)).setSer
      { s.ser with
        st := { busy := false, done := true, rej := s.ser.st.rej
                result := if b ≠ 0x7D then .invalidFrame else if s.ser.sum ≠ 0 then .checksumMismatch else .ok
                detail := if b ≠ 0x7D then 1 else 0 }
        total := s.ser.size, cnt := s.ser.need, endb := b, phase := .check })

/-- `ser.frame` over a channel that holds stray bytes, none of them the start marker, and then a byte string of a frame's
shape takes exactly those bytes, whatever follows: it ends in CHECK with the string in the buffer, DISCARD the number of
stray bytes, and the result that the terminator, then the Checksum8 of every byte before it, decide
(41_frame_scanner.md R135 to R138, R143). -/
def Obligations.FrameScannedFromStream : Prop :=
  ∀ (s : State) (stray f rest : List Byte), FrameBegun s → InTime s → s.rxq = stray ++ (f ++ rest) →
    (∀ b ∈ stray, b ≠ 0x7B) → FrameShaped f →
    ∃ t, runMoves (List.replicate (stray.length + f.length) .ser) s = .next t ∧
      t.ser.st.busy = false ∧ t.ser.st.done = true ∧ t.ser.phase = .check ∧ CheckDecided t.ser ∧
      f.getLast? = some t.ser.endb ∧ t.ser.sum = checksum8 f.dropLast ∧
      t.ser.size = BitVec.ofNat 16 f.length ∧ f[1]? = some t.ser.kind ∧ t.ser.total = BitVec.ofNat 16 f.length ∧
      t.ser.cnt = BitVec.ofNat 16 (f.length - 4) ∧ t.ser.need = BitVec.ofNat 16 (f.length - 4) ∧
      t.ser.discard = BitVec.ofNat 32 (min stray.length 0xFFFFFFFF) ∧
      BufHolds t.buf f ∧ t.rxq = rest ∧ (∀ i, f.length ≤ i → t.buf.byte i = s.buf.byte i) ∧
      t.bus = s.bus ∧ t.now = s.now ∧ t.pending = s.pending

/-- Resynchronisation: past any number of stray bytes, none of them the start marker, one valid frame gives OK and
exactly that frame (41_frame_scanner.md R143). -/
def Obligations.FrameResynchronises : Prop :=
  ∀ (s : State) (stray f rest : List Byte), FrameBegun s → InTime s → s.rxq = stray ++ (f ++ rest) →
    (∀ b ∈ stray, b ≠ 0x7B) → ValidFrame f →
    ∃ t, runMoves (List.replicate (stray.length + f.length) .ser) s = .next t ∧
      t.ser.st.done = true ∧ t.ser.st.result = .ok ∧ t.ser.phase = .check ∧
      t.ser.discard = BitVec.ofNat 32 (min stray.length 0xFFFFFFFF) ∧ BufHolds t.buf f ∧ t.rxq = rest

/-- One byte of a valid frame replaced by another: kind, payload or checksum gives CHECKSUM_MISMATCH, the terminator
INVALID_FRAME with DETAIL 1 (41_frame_scanner.md R144, its first two cases). -/
def Obligations.CorruptedByteIsDetected : Prop :=
  ∀ (s : State) (f rest : List Byte) (j : Nat) (b : Byte), FrameBegun s → InTime s → ValidFrame f →
    j < f.length → f[j]? ≠ some b → s.rxq = f.set j b ++ rest →
    (j = 1 ∨ (4 ≤ j ∧ j + 2 ≤ f.length) →
      ∃ t, runMoves (List.replicate f.length .ser) s = .next t ∧ t.ser.st.done = true ∧
        t.ser.st.result = .checksumMismatch ∧ t.rxq = rest) ∧
    (j + 1 = f.length →
      ∃ t, runMoves (List.replicate f.length .ser) s = .next t ∧ t.ser.st.done = true ∧
        t.ser.st.result = .invalidFrame ∧ t.ser.st.detail = 1 ∧ t.rxq = rest)

/-- A header that declares a size below 6 ends the command with INVALID_FRAME, DETAIL 0, after exactly its 4 bytes; no
tail byte is taken (41_frame_scanner.md R133, R139). -/
def Obligations.ShortSizeTakesFourBytes : Prop :=
  ∀ (s : State) (stray rest : List Byte) (kind lo hi : Byte), FrameBegun s → InTime s →
    s.rxq = stray ++ (0x7B :: kind :: lo :: hi :: rest) → (∀ b ∈ stray, b ≠ 0x7B) →
    lo.toNat + 256 * hi.toNat < 6 →
    ∃ t, runMoves (List.replicate (stray.length + 4) .ser) s = .next t ∧
      t.ser.st.busy = false ∧ t.ser.st.done = true ∧ t.ser.st.result = .invalidFrame ∧ t.ser.st.detail = 0 ∧
      t.ser.phase = .header ∧ t.ser.kind = kind ∧ t.ser.size = hi ++ lo ∧ t.ser.total = 4 ∧ t.ser.cnt = 3 ∧
      t.ser.need = 3 ∧ t.rxq = rest

/-- Truncation: where the channel delivers a proper prefix of a valid frame and then nothing, `ser.frame` waits, in SCAN,
HEADER or TAIL, and ends with TIMEOUT there when TIME reaches its deadline: never OK (41_frame_scanner.md R145). -/
def Obligations.TruncatedFrameTimesOut : Prop :=
  ∀ (s : State) (stray f : List Byte) (k : Nat), FrameBegun s → InTime s → s.rxq = stray ++ f.take k →
    (∀ b ∈ stray, b ≠ 0x7B) → ValidFrame f → k < f.length →
    ∃ t, runMoves (List.replicate (stray.length + k) .ser ++
        (List.replicate (s.ser.dl.toNat - s.now.toNat) .clock ++ [.ser])) s = .next t ∧
      t.ser.st.busy = false ∧ t.ser.st.done = true ∧ t.ser.st.result = .timeout ∧
      t.ser.phase = (if k = 0 then .scan else if k < 4 then .header else .tail) ∧
      t.ser.total = BitVec.ofNat 16 k ∧ BufHolds t.buf (f.take k)

/-- A `ser.frame` that has ended with OK leaves a valid frame in the buffer and its parts in the registers, in every
state with the invariant (41_frame_scanner.md R137). -/
def Obligations.OkFrameIsValidFrame : Prop :=
  ∀ s : State, Inv s → s.ser.st.busy = false → s.ser.st.done = true → s.ser.st.result = .ok →
    decode .ser s.ser.cmd = .ok .serFrame →
    s.buf.byte 0 = 0x7B ∧ 6 ≤ s.ser.size.toNat ∧
    s.ser.size.toNat = (s.buf.byte 2).toNat + 256 * (s.buf.byte 3).toNat ∧
    s.buf.byte (s.ser.size.toNat - 1) = 0x7D ∧ bufSum s.buf (s.ser.size.toNat - 1) = 0 ∧ s.ser.kind = s.buf.byte 1 ∧
    s.ser.total = s.ser.size ∧ s.ser.cnt = s.ser.size - 4 ∧ s.ser.need = s.ser.size - 4 ∧ s.ser.sum = 0 ∧
    s.ser.endb = 0x7D ∧ s.ser.phase = .check

/-! ## The Conversion Poller -/

/-- One step of SELECT: the selector is written once, when BUSDEV completes the write; until then the engine waits
(42_conversion_poller.md R161). -/
def Obligations.SelectStepWritesSelector : Prop :=
  ∀ (m : Half) (s : State), s.bus.phase = .select →
    (∀ b0 b1 b2, s.turn = .engine (some (.ok b0 b1 b2)) →
      exec (.busConvertWind m) s = .next ((busPerform (.write s.bus.sel) s).setBus { s.bus with phase := .poll }) ∧
      exec (.busConvertCur m) s = .next ((busPerform (.write s.bus.sel) s).setBus { s.bus with phase := .poll })) ∧
    (s.turn = .engine (some .err) →
      exec (.busConvertWind m) s = .next (raiseBus .ioError 0 (busPerform (.write s.bus.sel) s)) ∧
      exec (.busConvertCur m) s = .next (raiseBus .ioError 0 (busPerform (.write s.bus.sel) s))) ∧
    (s.turn = .engine none →
      exec (.busConvertWind m) s = .next s ∧ exec (.busConvertCur m) s = .next s)

/-- One step of POLL: one 3-byte read, when BUSDEV completes it; the ready test, bit 7 of the third byte, before the
budget (42_conversion_poller.md R162 to R164). -/
def Obligations.PollStepReadsOnce : Prop :=
  ∀ (i : Instr) (m : Half) (s : State), (i = .busConvertWind m ∨ i = .busConvertCur m) → s.bus.phase = .poll →
    (∀ b0 b1 b2 : Byte, s.turn = .engine (some (.ok b0 b1 b2)) →
      (b2.toNat < 128 → exec i s = .next ((busPerform .read3 s).setBus
        { s.bus with
          st := { busy := false, done := true, rej := s.bus.st.rej, result := .ok, detail := 0 }
          reads := s.bus.reads + 1, raw16 := b0 ++ b1, stat := b2 })) ∧
      (128 ≤ b2.toNat → s.bus.reads + 1 = s.bus.maxr → exec i s = .next ((busPerform .read3 s).setBus
        { s.bus with
          st := { busy := false, done := true, rej := s.bus.st.rej, result := .conversionTimeout, detail := 0 }
          reads := s.bus.reads + 1, raw16 := b0 ++ b1, stat := b2 })) ∧
      (128 ≤ b2.toNat → s.bus.reads + 1 ≠ s.bus.maxr → exec i s = .next ((busPerform .read3 s).setBus
        { s.bus with reads := s.bus.reads + 1, raw16 := b0 ++ b1, stat := b2 }))) ∧
    (s.turn = .engine (some .err) → exec i s = .next (raiseBus .ioError 0 (busPerform .read3 s))) ∧
    (s.turn = .engine none → exec i s = .next s)

/-- A conversion writes its selector once, reads until the first ready response, within its budget, and reports that
response: OK, READS the number of reads, the selector not sent again (42_conversion_poller.md R163, R167). -/
def Obligations.ConvertReadsUntilReady : Prop :=
  ∀ (s : State) (w : Byte × Byte × Byte) (notReady : List (Byte × Byte × Byte)) (b0 b1 b2 : Byte), ConvertBegun s →
    (∀ b ∈ notReady, 128 ≤ b.2.2.toNat) → b2.toNat < 128 → notReady.length < s.bus.maxr.toNat →
    ∃ t, runMoves (readAnswer w :: (notReady.map readAnswer ++ [readAnswer (b0, b1, b2)])) s = .next t ∧
      t.bus = { s.bus with
        st := { busy := false, done := true, rej := s.bus.st.rej, result := .ok, detail := 0 }
        phase := .poll, reads := BitVec.ofNat 16 (notReady.length + 1), raw16 := b0 ++ b1, stat := b2 } ∧
      t.busTrace = List.replicate (notReady.length + 1) .read3 ++ .write s.bus.sel :: s.busTrace ∧
      t.ser = s.ser ∧ t.rxq = s.rxq ∧ t.pending = s.pending

/-- A conversion whose MAXR reads are all not ready ends with CONVERSION_TIMEOUT, READS = MAXR and the values of the last
read (42_conversion_poller.md R164). -/
def Obligations.ConvertBudgetEnds : Prop :=
  ∀ (s : State) (w : Byte × Byte × Byte) (notReady : List (Byte × Byte × Byte)) (b0 b1 b2 : Byte), ConvertBegun s →
    (∀ b ∈ notReady, 128 ≤ b.2.2.toNat) → 128 ≤ b2.toNat → notReady.length + 1 = s.bus.maxr.toNat →
    ∃ t, runMoves (readAnswer w :: (notReady.map readAnswer ++ [readAnswer (b0, b1, b2)])) s = .next t ∧
      t.bus = { s.bus with
        st := { busy := false, done := true, rej := s.bus.st.rej, result := .conversionTimeout, detail := 0 }
        phase := .poll, reads := s.bus.maxr, raw16 := b0 ++ b1, stat := b2 } ∧
      t.busTrace = List.replicate (notReady.length + 1) .read3 ++ .write s.bus.sel :: s.busTrace ∧
      t.ser = s.ser ∧ t.rxq = s.rxq ∧ t.pending = s.pending

/-- Bounded progress of BUS: a running conversion, in any consistent state, has ended once BUSDEV has completed as many
transactions as its budget still allows, whatever the answers (70_reset_and_hazards.md R241, R244). -/
def Obligations.ConvertEndsWithinItsBudget : Prop :=
  ∀ (s : State) (answers : List BusAnswer), Inv s → s.bus.st.busy = true →
    answers.length = s.bus.maxr.toNat - s.bus.reads.toNat + (if s.bus.phase = .select then 1 else 0) →
    ∃ t, runMoves (answers.map fun a => .bus (some a)) s = .next t ∧ t.bus.st.busy = false ∧ t.bus.st.done = true ∧
      t.bus.reads ≤ t.bus.maxr ∧ t.bus.maxr = s.bus.maxr

/-- A conversion whose device does not complete a transaction waits without bound: any number of BUS steps without an
answer changes nothing but `turn` (20_memory.md R66, 70_reset_and_hazards.md R241). -/
def Obligations.StalledBusStaysBusy : Prop :=
  ∀ (s : State) (i : Instr) (k : Nat), s.bus.st.busy = true → s.bus.phase ≠ .idle → decode .bus s.bus.cmd = .ok i →
    runMoves (List.replicate (k + 1) (.bus none)) s = .next { s with turn := .engine none }

/-- The consumer's scale: a reading is raw16 times 0.0000625 volts exactly, from 0 to 4.0959375
(42_conversion_poller.md R166). -/
def Obligations.VoltsScale : Prop :=
  ∀ r : Half, volts r = (r.toNat : Rat) * (625 / 10000000) ∧ 0 ≤ volts r ∧ volts r ≤ 40959375 / 10000000

/-! ## Frames, and what no step does -/

/-- What a SER command leaves alone: everything but the SER engine, the buffer and the queue; its issue leaves the buffer
and the queue alone too; an engine step leaves CMD, the latched deadline and REJ alone, takes at most one byte, and
changes no byte but the one it stores to, index 0 in SCAN and `ser.total` in the other phases. -/
def Obligations.SerCommandFrame : Prop :=
  ∀ (i : Instr) (s t : State), i.engine = .ser → exec i s = .next t →
    OnlySerChanged s t ∧
    (s.turn = .issue → t.rxq = s.rxq ∧ ∀ j, t.buf.byte j = s.buf.byte j) ∧
    (∀ a, s.turn = .engine a →
      t.ser.cmd = s.ser.cmd ∧ t.ser.dl = s.ser.dl ∧ t.ser.st.rej = s.ser.st.rej ∧
      (t.rxq = s.rxq ∨ ∃ b, s.rxq = b :: t.rxq) ∧
      (∀ j, j ≠ (if s.ser.phase = .scan then 0 else s.ser.total.toNat) → t.buf.byte j = s.buf.byte j))

/-- What `ser.readn`'s engine steps leave alone besides: KIND, SIZE, ENDB, DISCARD, NEED and PHASE (40_exact_reader.md
R110), and what an engine step of `ser.frame` in SCAN or HEADER leaves alone besides. -/
def Obligations.SerEngineStepFrame : Prop :=
  (∀ (n : Half) (s t : State) (a : Option BusAnswer), s.turn = .engine a → exec (.serReadn n) s = .next t →
    t.ser.kind = s.ser.kind ∧ t.ser.size = s.ser.size ∧ t.ser.endb = s.ser.endb ∧ t.ser.discard = s.ser.discard ∧
    t.ser.need = s.ser.need ∧ t.ser.phase = s.ser.phase) ∧
  (∀ (s t : State) (a : Option BusAnswer), s.turn = .engine a → exec .serFrame s = .next t →
    (s.ser.phase ≠ .scan → t.ser.discard = s.ser.discard) ∧
    (s.ser.phase ≠ .header → t.ser.kind = s.ser.kind ∧ t.ser.size = s.ser.size) ∧
    (s.ser.phase ≠ .tail → t.ser.endb = s.ser.endb))

/-- What a conversion leaves alone: everything but the BUS engine and the transactions on the bus; its issue leaves those
alone too; an engine step leaves CMD, SEL, MAXR and REJ alone and performs at most the transaction in flight. -/
def Obligations.BusCommandFrame : Prop :=
  ∀ (i : Instr) (s t : State), i.engine = .bus → exec i s = .next t →
    OnlyBusChanged s t ∧ (∀ j, t.buf.byte j = s.buf.byte j) ∧
    (s.turn = .issue → t.busTrace = s.busTrace) ∧
    (∀ a, s.turn = .engine a → s.bus.st.busy = true →
      t.bus.cmd = s.bus.cmd ∧ t.bus.sel = s.bus.sel ∧ t.bus.maxr = s.bus.maxr ∧ t.bus.st.rej = s.bus.st.rej ∧
      (t.busTrace = s.busTrace ∨ ∃ op, inFlight s = some op ∧ t.busTrace = op :: s.busTrace))

/-- Bytes leave the channel only in a SER engine step of a running command that takes one, one at a time and in order;
they enter only at its end; the error condition changes only by RXCHAN (20_memory.md R63, R64, R65). -/
def Obligations.ChannelBytesTakenInOrder : Prop :=
  ∀ s t : State, step s = .next t →
    (t.rxq = s.rxq ∨ (∃ b, nextMove s = .rxByte b ∧ t.rxq = s.rxq ++ [b]) ∨
      (nextMove s = .ser ∧ s.ser.st.busy = true ∧
        (s.ser.phase = .scan ∨ s.ser.phase = .header ∨ s.ser.phase = .tail ∨ s.ser.phase = .readn) ∧
        ∃ b, s.rxq = b :: t.rxq)) ∧
    (t.rxErr = s.rxErr ∨ nextMove s = .rxErr t.rxErr) ∧
    (∀ b, nextMove s = .rxByte b → t.rxq = s.rxq ++ [b]) ∧ (∀ e, nextMove s = .rxErr e → t.rxErr = e)

/-- Only a SER engine step writes the frame buffer, and only the byte at index 0 in SCAN or at `ser.total` elsewhere
(20_memory.md R61; reset leaves its contents unspecified, R231). -/
def Obligations.OnlySerWritesBuffer : Prop :=
  ∀ s t : State, step s = .next t → nextMove s ≠ .reset → ∀ j, t.buf.byte j ≠ s.buf.byte j →
    nextMove s = .ser ∧ s.ser.st.busy = true ∧
    j = (if s.ser.phase = .scan then 0 else s.ser.total.toNat)

/-- CLOCK adds 1 to TIME modulo 2^64 and changes nothing else; only CLOCK and reset change TIME, which no write reaches
(10_state.md R38). -/
def Obligations.OnlyClockMovesTime : Prop :=
  (∀ s : State, nextMove s = .clock →
    ∃ t, step s = .next t ∧ t = (takeMove s).setNow t.now ∧ t.now.toNat = (s.now.toNat + 1) % 2 ^ 64) ∧
  (∀ s t : State, step s = .next t → t.now ≠ s.now → nextMove s = .clock ∨ nextMove s = .reset) ∧
  State.reset.now = 0 ∧
  (∀ s : State, (regValue s .timeLo).toNat = s.now.toNat % 2 ^ 32 ∧ (regValue s .timeHi).toNat = s.now.toNat / 2 ^ 32)

/-- The two engines do not interfere: a SER step and a BUS step give the same state in either order, but for which of
them was the last (43_host_access.md R187, 60_exceptions.md R206). -/
def Obligations.EngineStepsCommute : Prop :=
  ∀ (s t : State) (a : Option BusAnswer), runMoves [.ser, .bus a] s = .next t →
    runMoves [.bus a, .ser] s = .next { t with turn := .engine none }

/-- Neither engine's step depends on the other engine: the SER engine, the buffer and the queue after a SER step are the
same whatever the BUS engine was, and the BUS engine after a BUS step whatever the SER engine was (43_host_access.md
R187). -/
def Obligations.EnginesShareOnlyTime : Prop :=
  (∀ (s t : State) (e : BusEngine), nextMove s = .ser → step s = .next t →
    step (s.setBus e) = .next (t.setBus e)) ∧
  (∀ (s t : State) (e : SerEngine) (a : Option BusAnswer), nextMove s = .bus a → step s = .next t →
    step (s.setSer e) = .next (t.setSer e))

/-- Where a meaning stops: an engine step in a phase its command does not have, and a busy engine whose latched word is
no command of it (93_implementation_defined.md U6: fault, if a model ever produces one). The model's choice of names:
notes/assumptions/10.md. -/
def Obligations.ImpossiblePhaseFaults : Prop :=
  (∀ (n : Half) (s : State) (a : Option BusAnswer), s.turn = .engine a → s.ser.phase ≠ .readn →
    exec (.serReadn n) s = .fault (.phaseNotOfCommand .ser)) ∧
  (∀ (s : State) (a : Option BusAnswer), s.turn = .engine a →
    (s.ser.phase = .idle ∨ s.ser.phase = .check ∨ s.ser.phase = .readn) →
    exec .serFrame s = .fault (.phaseNotOfCommand .ser)) ∧
  (∀ (m : Half) (s : State) (a : Option BusAnswer), s.turn = .engine a → s.bus.phase = .idle →
    exec (.busConvertWind m) s = .fault (.phaseNotOfCommand .bus) ∧
    exec (.busConvertCur m) s = .fault (.phaseNotOfCommand .bus)) ∧
  (∀ (s : State) (d : CmdError), nextMove s = .ser → s.ser.st.busy = true → decode .ser s.ser.cmd = .error d →
    step s = .fault (.wordNotCommand .ser)) ∧
  (∀ (s : State) (a : Option BusAnswer) (d : CmdError), nextMove s = .bus a → s.bus.st.busy = true →
    decode .bus s.bus.cmd = .error d → step s = .fault (.wordNotCommand .bus))
end

