-- ==== Sys2Proof/Laws/Decode.lean ====
section
/-! SUPPORT. The fields of a command word, as the decoder and the encoder see them. -/

namespace Sys2Proof


/-- Two fields side by side, as a number. -/
theorem append_toNat {m n : Nat} (a : BitVec m) (b : BitVec n) :
    (a ++ b).toNat = a.toNat * 2 ^ n + b.toNat := by
  rw [BitVec.toNat_append, Nat.shiftLeft_eq, Nat.mul_comm, ← Nat.two_pow_add_eq_or_of_lt b.isLt]

/-- A field of a word, as a number. -/
theorem field_toNat (w : Word) (lo len : Nat) : (w.extractLsb' lo len).toNat = w.toNat / 2 ^ lo % 2 ^ len := by
  rw [BitVec.extractLsb'_toNat, Nat.shiftRight_eq_div_pow]

/-- The word of each command, as a number (30_encoding.md R95). -/
theorem encode_serReadn_toNat (n : Half) : (encode (.serReadn n)).toNat = n.toNat * 65536 + 0x0001 := by
  simp only [encode, append_toNat]
  rfl

theorem encode_busConvertWind_toNat (m : Half) :
    (encode (.busConvertWind m)).toNat = m.toNat * 65536 + 0x8801 := by
  simp only [encode, append_toNat]
  rfl

theorem encode_busConvertCur_toNat (m : Half) :
    (encode (.busConvertCur m)).toNat = m.toNat * 65536 + 0xA801 := by
  simp only [encode, append_toNat]
  rfl

/-- The three ways a word written to SER_CMD decodes. -/
theorem decodeSer_cases (w : Word) :
    (opField w = 1 ∧ serRsvdField w = 0 ∧ decode .ser w = .ok (.serReadn (argField w))) ∨
    (opField w = 2 ∧ serRsvdField w = 0 ∧ argField w = 0 ∧ decode .ser w = .ok .serFrame) ∨
    (∃ d, decode .ser w = .error d) := by
  simp only [decode, decodeSer]
  split
  · split
    · exact .inr (.inr ⟨_, rfl⟩)
    · rename_i h1 h2
      exact .inl ⟨h1, by simpa using h2, rfl⟩
  · split
    · split
      · exact .inr (.inr ⟨_, rfl⟩)
      · rename_i h1 h2
        exact .inr (.inl ⟨h1, by simpa using h2⟩)
    · exact .inr (.inr ⟨_, rfl⟩)

/-- The three ways a word written to BUS_CMD decodes. -/
theorem decodeBus_cases (w : Word) :
    (opField w = 1 ∧ busRsvdField w = 0 ∧ argField w ≠ 0 ∧ selField w = Config.selWind ∧
      decode .bus w = .ok (.busConvertWind (argField w))) ∨
    (opField w = 1 ∧ busRsvdField w = 0 ∧ argField w ≠ 0 ∧ selField w = Config.selCur ∧
      decode .bus w = .ok (.busConvertCur (argField w))) ∨
    (∃ d, decode .bus w = .error d) := by
  simp only [decode, decodeBus]
  split
  · exact .inr (.inr ⟨_, rfl⟩)
  · split
    · exact .inr (.inr ⟨_, rfl⟩)
    · split
      · exact .inr (.inr ⟨_, rfl⟩)
      · rename_i h1 h2 h3
        split
        · rename_i h4
          exact .inl ⟨by simpa using h1, by simpa using h2, h3, h4, rfl⟩
        · split
          · rename_i h5
            exact .inr (.inl ⟨by simpa using h1, by simpa using h2, h3, h5, rfl⟩)
          · exact .inr (.inr ⟨_, rfl⟩)

/-- SER_CMD runs only the two SER commands. -/
theorem decodeSer_ok {w : Word} {i : Instr} (h : decode .ser w = .ok i) :
    i = .serReadn (argField w) ∨ i = .serFrame := by
  rcases decodeSer_cases w with ⟨_, _, e⟩ | ⟨_, _, _, e⟩ | ⟨_, e⟩ <;> rw [e] at h <;> cases h <;> simp

/-- BUS_CMD runs only the two BUS commands. -/
theorem decodeBus_ok {w : Word} {i : Instr} (h : decode .bus w = .ok i) :
    i = .busConvertWind (argField w) ∨ i = .busConvertCur (argField w) := by
  rcases decodeBus_cases w with ⟨_, _, _, _, e⟩ | ⟨_, _, _, _, e⟩ | ⟨_, e⟩ <;> rw [e] at h <;> cases h <;> simp

end Sys2Proof
end

