-- ==== Sys2Proof/Laws/State.lean ====
section
/-! SUPPORT. One lemma per field per update of State and of Status. -/

namespace Sys2Proof.Machine

@[simp] theorem State.setSer_ser (s : State) (v : SerEngine) : (s.setSer v).ser = v := rfl
@[simp] theorem State.setSer_bus (s : State) (v : SerEngine) : (s.setSer v).bus = s.bus := rfl
@[simp] theorem State.setSer_dlLo (s : State) (v : SerEngine) : (s.setSer v).dlLo = s.dlLo := rfl
@[simp] theorem State.setSer_dlHi (s : State) (v : SerEngine) : (s.setSer v).dlHi = s.dlHi := rfl
@[simp] theorem State.setSer_now (s : State) (v : SerEngine) : (s.setSer v).now = s.now := rfl
@[simp] theorem State.setSer_buf (s : State) (v : SerEngine) : (s.setSer v).buf = s.buf := rfl
@[simp] theorem State.setSer_rxq (s : State) (v : SerEngine) : (s.setSer v).rxq = s.rxq := rfl
@[simp] theorem State.setSer_rxErr (s : State) (v : SerEngine) : (s.setSer v).rxErr = s.rxErr := rfl
@[simp] theorem State.setSer_busTrace (s : State) (v : SerEngine) : (s.setSer v).busTrace = s.busTrace := rfl
@[simp] theorem State.setSer_hostV (s : State) (v : SerEngine) : (s.setSer v).hostV = s.hostV := rfl
@[simp] theorem State.setSer_turn (s : State) (v : SerEngine) : (s.setSer v).turn = s.turn := rfl
@[simp] theorem State.setSer_pending (s : State) (v : SerEngine) : (s.setSer v).pending = s.pending := rfl
@[simp] theorem State.setSer_moveCount (s : State) (v : SerEngine) : (s.setSer v).moveCount = s.moveCount := rfl

@[simp] theorem State.setBus_ser (s : State) (v : BusEngine) : (s.setBus v).ser = s.ser := rfl
@[simp] theorem State.setBus_bus (s : State) (v : BusEngine) : (s.setBus v).bus = v := rfl
@[simp] theorem State.setBus_dlLo (s : State) (v : BusEngine) : (s.setBus v).dlLo = s.dlLo := rfl
@[simp] theorem State.setBus_dlHi (s : State) (v : BusEngine) : (s.setBus v).dlHi = s.dlHi := rfl
@[simp] theorem State.setBus_now (s : State) (v : BusEngine) : (s.setBus v).now = s.now := rfl
@[simp] theorem State.setBus_buf (s : State) (v : BusEngine) : (s.setBus v).buf = s.buf := rfl
@[simp] theorem State.setBus_rxq (s : State) (v : BusEngine) : (s.setBus v).rxq = s.rxq := rfl
@[simp] theorem State.setBus_rxErr (s : State) (v : BusEngine) : (s.setBus v).rxErr = s.rxErr := rfl
@[simp] theorem State.setBus_busTrace (s : State) (v : BusEngine) : (s.setBus v).busTrace = s.busTrace := rfl
@[simp] theorem State.setBus_hostV (s : State) (v : BusEngine) : (s.setBus v).hostV = s.hostV := rfl
@[simp] theorem State.setBus_turn (s : State) (v : BusEngine) : (s.setBus v).turn = s.turn := rfl
@[simp] theorem State.setBus_pending (s : State) (v : BusEngine) : (s.setBus v).pending = s.pending := rfl
@[simp] theorem State.setBus_moveCount (s : State) (v : BusEngine) : (s.setBus v).moveCount = s.moveCount := rfl

@[simp] theorem State.setDlLo_ser (s : State) (v : Word) : (s.setDlLo v).ser = s.ser := rfl
@[simp] theorem State.setDlLo_bus (s : State) (v : Word) : (s.setDlLo v).bus = s.bus := rfl
@[simp] theorem State.setDlLo_dlLo (s : State) (v : Word) : (s.setDlLo v).dlLo = v := rfl
@[simp] theorem State.setDlLo_dlHi (s : State) (v : Word) : (s.setDlLo v).dlHi = s.dlHi := rfl
@[simp] theorem State.setDlLo_now (s : State) (v : Word) : (s.setDlLo v).now = s.now := rfl
@[simp] theorem State.setDlLo_buf (s : State) (v : Word) : (s.setDlLo v).buf = s.buf := rfl
@[simp] theorem State.setDlLo_rxq (s : State) (v : Word) : (s.setDlLo v).rxq = s.rxq := rfl
@[simp] theorem State.setDlLo_rxErr (s : State) (v : Word) : (s.setDlLo v).rxErr = s.rxErr := rfl
@[simp] theorem State.setDlLo_busTrace (s : State) (v : Word) : (s.setDlLo v).busTrace = s.busTrace := rfl
@[simp] theorem State.setDlLo_hostV (s : State) (v : Word) : (s.setDlLo v).hostV = s.hostV := rfl
@[simp] theorem State.setDlLo_turn (s : State) (v : Word) : (s.setDlLo v).turn = s.turn := rfl
@[simp] theorem State.setDlLo_pending (s : State) (v : Word) : (s.setDlLo v).pending = s.pending := rfl
@[simp] theorem State.setDlLo_moveCount (s : State) (v : Word) : (s.setDlLo v).moveCount = s.moveCount := rfl

@[simp] theorem State.setDlHi_ser (s : State) (v : Word) : (s.setDlHi v).ser = s.ser := rfl
@[simp] theorem State.setDlHi_bus (s : State) (v : Word) : (s.setDlHi v).bus = s.bus := rfl
@[simp] theorem State.setDlHi_dlLo (s : State) (v : Word) : (s.setDlHi v).dlLo = s.dlLo := rfl
@[simp] theorem State.setDlHi_dlHi (s : State) (v : Word) : (s.setDlHi v).dlHi = v := rfl
@[simp] theorem State.setDlHi_now (s : State) (v : Word) : (s.setDlHi v).now = s.now := rfl
@[simp] theorem State.setDlHi_buf (s : State) (v : Word) : (s.setDlHi v).buf = s.buf := rfl
@[simp] theorem State.setDlHi_rxq (s : State) (v : Word) : (s.setDlHi v).rxq = s.rxq := rfl
@[simp] theorem State.setDlHi_rxErr (s : State) (v : Word) : (s.setDlHi v).rxErr = s.rxErr := rfl
@[simp] theorem State.setDlHi_busTrace (s : State) (v : Word) : (s.setDlHi v).busTrace = s.busTrace := rfl
@[simp] theorem State.setDlHi_hostV (s : State) (v : Word) : (s.setDlHi v).hostV = s.hostV := rfl
@[simp] theorem State.setDlHi_turn (s : State) (v : Word) : (s.setDlHi v).turn = s.turn := rfl
@[simp] theorem State.setDlHi_pending (s : State) (v : Word) : (s.setDlHi v).pending = s.pending := rfl
@[simp] theorem State.setDlHi_moveCount (s : State) (v : Word) : (s.setDlHi v).moveCount = s.moveCount := rfl

@[simp] theorem State.setNow_ser (s : State) (v : Time) : (s.setNow v).ser = s.ser := rfl
@[simp] theorem State.setNow_bus (s : State) (v : Time) : (s.setNow v).bus = s.bus := rfl
@[simp] theorem State.setNow_dlLo (s : State) (v : Time) : (s.setNow v).dlLo = s.dlLo := rfl
@[simp] theorem State.setNow_dlHi (s : State) (v : Time) : (s.setNow v).dlHi = s.dlHi := rfl
@[simp] theorem State.setNow_now (s : State) (v : Time) : (s.setNow v).now = v := rfl
@[simp] theorem State.setNow_buf (s : State) (v : Time) : (s.setNow v).buf = s.buf := rfl
@[simp] theorem State.setNow_rxq (s : State) (v : Time) : (s.setNow v).rxq = s.rxq := rfl
@[simp] theorem State.setNow_rxErr (s : State) (v : Time) : (s.setNow v).rxErr = s.rxErr := rfl
@[simp] theorem State.setNow_busTrace (s : State) (v : Time) : (s.setNow v).busTrace = s.busTrace := rfl
@[simp] theorem State.setNow_hostV (s : State) (v : Time) : (s.setNow v).hostV = s.hostV := rfl
@[simp] theorem State.setNow_turn (s : State) (v : Time) : (s.setNow v).turn = s.turn := rfl
@[simp] theorem State.setNow_pending (s : State) (v : Time) : (s.setNow v).pending = s.pending := rfl
@[simp] theorem State.setNow_moveCount (s : State) (v : Time) : (s.setNow v).moveCount = s.moveCount := rfl

@[simp] theorem State.setBuf_ser (s : State) (v : FrameBuf) : (s.setBuf v).ser = s.ser := rfl
@[simp] theorem State.setBuf_bus (s : State) (v : FrameBuf) : (s.setBuf v).bus = s.bus := rfl
@[simp] theorem State.setBuf_dlLo (s : State) (v : FrameBuf) : (s.setBuf v).dlLo = s.dlLo := rfl
@[simp] theorem State.setBuf_dlHi (s : State) (v : FrameBuf) : (s.setBuf v).dlHi = s.dlHi := rfl
@[simp] theorem State.setBuf_now (s : State) (v : FrameBuf) : (s.setBuf v).now = s.now := rfl
@[simp] theorem State.setBuf_buf (s : State) (v : FrameBuf) : (s.setBuf v).buf = v := rfl
@[simp] theorem State.setBuf_rxq (s : State) (v : FrameBuf) : (s.setBuf v).rxq = s.rxq := rfl
@[simp] theorem State.setBuf_rxErr (s : State) (v : FrameBuf) : (s.setBuf v).rxErr = s.rxErr := rfl
@[simp] theorem State.setBuf_busTrace (s : State) (v : FrameBuf) : (s.setBuf v).busTrace = s.busTrace := rfl
@[simp] theorem State.setBuf_hostV (s : State) (v : FrameBuf) : (s.setBuf v).hostV = s.hostV := rfl
@[simp] theorem State.setBuf_turn (s : State) (v : FrameBuf) : (s.setBuf v).turn = s.turn := rfl
@[simp] theorem State.setBuf_pending (s : State) (v : FrameBuf) : (s.setBuf v).pending = s.pending := rfl
@[simp] theorem State.setBuf_moveCount (s : State) (v : FrameBuf) : (s.setBuf v).moveCount = s.moveCount := rfl

@[simp] theorem State.setRxq_ser (s : State) (v : List Byte) : (s.setRxq v).ser = s.ser := rfl
@[simp] theorem State.setRxq_bus (s : State) (v : List Byte) : (s.setRxq v).bus = s.bus := rfl
@[simp] theorem State.setRxq_dlLo (s : State) (v : List Byte) : (s.setRxq v).dlLo = s.dlLo := rfl
@[simp] theorem State.setRxq_dlHi (s : State) (v : List Byte) : (s.setRxq v).dlHi = s.dlHi := rfl
@[simp] theorem State.setRxq_now (s : State) (v : List Byte) : (s.setRxq v).now = s.now := rfl
@[simp] theorem State.setRxq_buf (s : State) (v : List Byte) : (s.setRxq v).buf = s.buf := rfl
@[simp] theorem State.setRxq_rxq (s : State) (v : List Byte) : (s.setRxq v).rxq = v := rfl
@[simp] theorem State.setRxq_rxErr (s : State) (v : List Byte) : (s.setRxq v).rxErr = s.rxErr := rfl
@[simp] theorem State.setRxq_busTrace (s : State) (v : List Byte) : (s.setRxq v).busTrace = s.busTrace := rfl
@[simp] theorem State.setRxq_hostV (s : State) (v : List Byte) : (s.setRxq v).hostV = s.hostV := rfl
@[simp] theorem State.setRxq_turn (s : State) (v : List Byte) : (s.setRxq v).turn = s.turn := rfl
@[simp] theorem State.setRxq_pending (s : State) (v : List Byte) : (s.setRxq v).pending = s.pending := rfl
@[simp] theorem State.setRxq_moveCount (s : State) (v : List Byte) : (s.setRxq v).moveCount = s.moveCount := rfl

@[simp] theorem State.setRxErr_ser (s : State) (v : Bool) : (s.setRxErr v).ser = s.ser := rfl
@[simp] theorem State.setRxErr_bus (s : State) (v : Bool) : (s.setRxErr v).bus = s.bus := rfl
@[simp] theorem State.setRxErr_dlLo (s : State) (v : Bool) : (s.setRxErr v).dlLo = s.dlLo := rfl
@[simp] theorem State.setRxErr_dlHi (s : State) (v : Bool) : (s.setRxErr v).dlHi = s.dlHi := rfl
@[simp] theorem State.setRxErr_now (s : State) (v : Bool) : (s.setRxErr v).now = s.now := rfl
@[simp] theorem State.setRxErr_buf (s : State) (v : Bool) : (s.setRxErr v).buf = s.buf := rfl
@[simp] theorem State.setRxErr_rxq (s : State) (v : Bool) : (s.setRxErr v).rxq = s.rxq := rfl
@[simp] theorem State.setRxErr_rxErr (s : State) (v : Bool) : (s.setRxErr v).rxErr = v := rfl
@[simp] theorem State.setRxErr_busTrace (s : State) (v : Bool) : (s.setRxErr v).busTrace = s.busTrace := rfl
@[simp] theorem State.setRxErr_hostV (s : State) (v : Bool) : (s.setRxErr v).hostV = s.hostV := rfl
@[simp] theorem State.setRxErr_turn (s : State) (v : Bool) : (s.setRxErr v).turn = s.turn := rfl
@[simp] theorem State.setRxErr_pending (s : State) (v : Bool) : (s.setRxErr v).pending = s.pending := rfl
@[simp] theorem State.setRxErr_moveCount (s : State) (v : Bool) : (s.setRxErr v).moveCount = s.moveCount := rfl

@[simp] theorem State.setBusTrace_ser (s : State) (v : List BusOp) : (s.setBusTrace v).ser = s.ser := rfl
@[simp] theorem State.setBusTrace_bus (s : State) (v : List BusOp) : (s.setBusTrace v).bus = s.bus := rfl
@[simp] theorem State.setBusTrace_dlLo (s : State) (v : List BusOp) : (s.setBusTrace v).dlLo = s.dlLo := rfl
@[simp] theorem State.setBusTrace_dlHi (s : State) (v : List BusOp) : (s.setBusTrace v).dlHi = s.dlHi := rfl
@[simp] theorem State.setBusTrace_now (s : State) (v : List BusOp) : (s.setBusTrace v).now = s.now := rfl
@[simp] theorem State.setBusTrace_buf (s : State) (v : List BusOp) : (s.setBusTrace v).buf = s.buf := rfl
@[simp] theorem State.setBusTrace_rxq (s : State) (v : List BusOp) : (s.setBusTrace v).rxq = s.rxq := rfl
@[simp] theorem State.setBusTrace_rxErr (s : State) (v : List BusOp) : (s.setBusTrace v).rxErr = s.rxErr := rfl
@[simp] theorem State.setBusTrace_busTrace (s : State) (v : List BusOp) : (s.setBusTrace v).busTrace = v := rfl
@[simp] theorem State.setBusTrace_hostV (s : State) (v : List BusOp) : (s.setBusTrace v).hostV = s.hostV := rfl
@[simp] theorem State.setBusTrace_turn (s : State) (v : List BusOp) : (s.setBusTrace v).turn = s.turn := rfl
@[simp] theorem State.setBusTrace_pending (s : State) (v : List BusOp) : (s.setBusTrace v).pending = s.pending := rfl
@[simp] theorem State.setBusTrace_moveCount (s : State) (v : List BusOp) : (s.setBusTrace v).moveCount = s.moveCount := rfl

@[simp] theorem State.setHostV_ser (s : State) (v : Word) : (s.setHostV v).ser = s.ser := rfl
@[simp] theorem State.setHostV_bus (s : State) (v : Word) : (s.setHostV v).bus = s.bus := rfl
@[simp] theorem State.setHostV_dlLo (s : State) (v : Word) : (s.setHostV v).dlLo = s.dlLo := rfl
@[simp] theorem State.setHostV_dlHi (s : State) (v : Word) : (s.setHostV v).dlHi = s.dlHi := rfl
@[simp] theorem State.setHostV_now (s : State) (v : Word) : (s.setHostV v).now = s.now := rfl
@[simp] theorem State.setHostV_buf (s : State) (v : Word) : (s.setHostV v).buf = s.buf := rfl
@[simp] theorem State.setHostV_rxq (s : State) (v : Word) : (s.setHostV v).rxq = s.rxq := rfl
@[simp] theorem State.setHostV_rxErr (s : State) (v : Word) : (s.setHostV v).rxErr = s.rxErr := rfl
@[simp] theorem State.setHostV_busTrace (s : State) (v : Word) : (s.setHostV v).busTrace = s.busTrace := rfl
@[simp] theorem State.setHostV_hostV (s : State) (v : Word) : (s.setHostV v).hostV = v := rfl
@[simp] theorem State.setHostV_turn (s : State) (v : Word) : (s.setHostV v).turn = s.turn := rfl
@[simp] theorem State.setHostV_pending (s : State) (v : Word) : (s.setHostV v).pending = s.pending := rfl
@[simp] theorem State.setHostV_moveCount (s : State) (v : Word) : (s.setHostV v).moveCount = s.moveCount := rfl

@[simp] theorem Status.raise_busy (st : Status) (r : Result) (d : BitVec 2) : (st.raise r d).busy = false := rfl
@[simp] theorem Status.raise_done (st : Status) (r : Result) (d : BitVec 2) : (st.raise r d).done = true := rfl
@[simp] theorem Status.raise_rej (st : Status) (r : Result) (d : BitVec 2) : (st.raise r d).rej = st.rej := rfl
@[simp] theorem Status.raise_result (st : Status) (r : Result) (d : BitVec 2) : (st.raise r d).result = r := rfl
@[simp] theorem Status.raise_detail (st : Status) (r : Result) (d : BitVec 2) : (st.raise r d).detail = d := rfl

@[simp] theorem Status.accept_busy (st : Status) : (st.accept).busy = st.busy := rfl
@[simp] theorem Status.accept_done (st : Status) : (st.accept).done = false := rfl
@[simp] theorem Status.accept_rej (st : Status) : (st.accept).rej = false := rfl
@[simp] theorem Status.accept_result (st : Status) : (st.accept).result = .ok := rfl
@[simp] theorem Status.accept_detail (st : Status) : (st.accept).detail = 0 := rfl

@[simp] theorem Status.start_busy (st : Status) : (st.start).busy = true := rfl
@[simp] theorem Status.start_done (st : Status) : (st.start).done = st.done := rfl
@[simp] theorem Status.start_rej (st : Status) : (st.start).rej = st.rej := rfl
@[simp] theorem Status.start_result (st : Status) : (st.start).result = st.result := rfl
@[simp] theorem Status.start_detail (st : Status) : (st.start).detail = st.detail := rfl

@[simp] theorem Status.reject_busy (st : Status) : (st.reject).busy = st.busy := rfl
@[simp] theorem Status.reject_done (st : Status) : (st.reject).done = st.done := rfl
@[simp] theorem Status.reject_rej (st : Status) : (st.reject).rej = true := rfl
@[simp] theorem Status.reject_result (st : Status) : (st.reject).result = st.result := rfl
@[simp] theorem Status.reject_detail (st : Status) : (st.reject).detail = st.detail := rfl

@[simp] theorem raiseSer_ser (r : Result) (d : BitVec 2) (s : State) :
    (raiseSer r d s).ser = { s.ser with st := s.ser.st.raise r d } := rfl
@[simp] theorem raiseSer_bus (r : Result) (d : BitVec 2) (s : State) : (raiseSer r d s).bus = s.bus := rfl
@[simp] theorem raiseSer_dlLo (r : Result) (d : BitVec 2) (s : State) : (raiseSer r d s).dlLo = s.dlLo := rfl
@[simp] theorem raiseSer_dlHi (r : Result) (d : BitVec 2) (s : State) : (raiseSer r d s).dlHi = s.dlHi := rfl
@[simp] theorem raiseSer_now (r : Result) (d : BitVec 2) (s : State) : (raiseSer r d s).now = s.now := rfl
@[simp] theorem raiseSer_buf (r : Result) (d : BitVec 2) (s : State) : (raiseSer r d s).buf = s.buf := rfl
@[simp] theorem raiseSer_rxq (r : Result) (d : BitVec 2) (s : State) : (raiseSer r d s).rxq = s.rxq := rfl
@[simp] theorem raiseSer_rxErr (r : Result) (d : BitVec 2) (s : State) : (raiseSer r d s).rxErr = s.rxErr := rfl
@[simp] theorem raiseSer_busTrace (r : Result) (d : BitVec 2) (s : State) : (raiseSer r d s).busTrace = s.busTrace := rfl
@[simp] theorem raiseSer_hostV (r : Result) (d : BitVec 2) (s : State) : (raiseSer r d s).hostV = s.hostV := rfl
@[simp] theorem raiseSer_turn (r : Result) (d : BitVec 2) (s : State) : (raiseSer r d s).turn = s.turn := rfl
@[simp] theorem raiseSer_pending (r : Result) (d : BitVec 2) (s : State) : (raiseSer r d s).pending = s.pending := rfl
@[simp] theorem raiseSer_moveCount (r : Result) (d : BitVec 2) (s : State) : (raiseSer r d s).moveCount = s.moveCount := rfl

@[simp] theorem raiseBus_ser (r : Result) (d : BitVec 2) (s : State) : (raiseBus r d s).ser = s.ser := rfl
@[simp] theorem raiseBus_bus (r : Result) (d : BitVec 2) (s : State) :
    (raiseBus r d s).bus = { s.bus with st := s.bus.st.raise r d } := rfl
@[simp] theorem raiseBus_dlLo (r : Result) (d : BitVec 2) (s : State) : (raiseBus r d s).dlLo = s.dlLo := rfl
@[simp] theorem raiseBus_dlHi (r : Result) (d : BitVec 2) (s : State) : (raiseBus r d s).dlHi = s.dlHi := rfl
@[simp] theorem raiseBus_now (r : Result) (d : BitVec 2) (s : State) : (raiseBus r d s).now = s.now := rfl
@[simp] theorem raiseBus_buf (r : Result) (d : BitVec 2) (s : State) : (raiseBus r d s).buf = s.buf := rfl
@[simp] theorem raiseBus_rxq (r : Result) (d : BitVec 2) (s : State) : (raiseBus r d s).rxq = s.rxq := rfl
@[simp] theorem raiseBus_rxErr (r : Result) (d : BitVec 2) (s : State) : (raiseBus r d s).rxErr = s.rxErr := rfl
@[simp] theorem raiseBus_busTrace (r : Result) (d : BitVec 2) (s : State) : (raiseBus r d s).busTrace = s.busTrace := rfl
@[simp] theorem raiseBus_hostV (r : Result) (d : BitVec 2) (s : State) : (raiseBus r d s).hostV = s.hostV := rfl
@[simp] theorem raiseBus_turn (r : Result) (d : BitVec 2) (s : State) : (raiseBus r d s).turn = s.turn := rfl
@[simp] theorem raiseBus_pending (r : Result) (d : BitVec 2) (s : State) : (raiseBus r d s).pending = s.pending := rfl
@[simp] theorem raiseBus_moveCount (r : Result) (d : BitVec 2) (s : State) : (raiseBus r d s).moveCount = s.moveCount := rfl

@[simp] theorem busPerform_ser (op : BusOp) (s : State) : (busPerform op s).ser = s.ser := rfl
@[simp] theorem busPerform_bus (op : BusOp) (s : State) : (busPerform op s).bus = s.bus := rfl
@[simp] theorem busPerform_dlLo (op : BusOp) (s : State) : (busPerform op s).dlLo = s.dlLo := rfl
@[simp] theorem busPerform_dlHi (op : BusOp) (s : State) : (busPerform op s).dlHi = s.dlHi := rfl
@[simp] theorem busPerform_now (op : BusOp) (s : State) : (busPerform op s).now = s.now := rfl
@[simp] theorem busPerform_buf (op : BusOp) (s : State) : (busPerform op s).buf = s.buf := rfl
@[simp] theorem busPerform_rxq (op : BusOp) (s : State) : (busPerform op s).rxq = s.rxq := rfl
@[simp] theorem busPerform_rxErr (op : BusOp) (s : State) : (busPerform op s).rxErr = s.rxErr := rfl
@[simp] theorem busPerform_busTrace (op : BusOp) (s : State) : (busPerform op s).busTrace = op :: s.busTrace := rfl
@[simp] theorem busPerform_hostV (op : BusOp) (s : State) : (busPerform op s).hostV = s.hostV := rfl
@[simp] theorem busPerform_turn (op : BusOp) (s : State) : (busPerform op s).turn = s.turn := rfl
@[simp] theorem busPerform_pending (op : BusOp) (s : State) : (busPerform op s).pending = s.pending := rfl
@[simp] theorem busPerform_moveCount (op : BusOp) (s : State) : (busPerform op s).moveCount = s.moveCount := rfl

end Sys2Proof.Machine
end

