-- ==== Sys2Proof/Laws/Memory.lean ====
section
/-! SUPPORT. The frame buffer: a byte written reads back, every other byte reads as before, and the canonical form is
kept (20_memory.md R61). -/

namespace Sys2Proof.Machine

@[simp] theorem Memory.read?_write_same (m : Memory) (a : Nat) (v : Byte) :
    Memory.read? (Memory.write m a v) a = some v := by
  induction m with
  | nil => simp [Memory.write, Memory.read?]
  | cons c rest ih =>
    obtain ⟨k, b⟩ := c
    unfold Memory.write
    split
    · simp [Memory.read?]
    · split
      · simp [Memory.read?]
      · rename_i _ hne
        simp [Memory.read?, Ne.symm hne, ih]

theorem Memory.read?_write_other (m : Memory) {a i : Nat} (v : Byte) (h : i ≠ a) :
    Memory.read? (Memory.write m a v) i = Memory.read? m i := by
  induction m with
  | nil => simp [Memory.write, Memory.read?, Ne.symm h]
  | cons c rest ih =>
    obtain ⟨k, b⟩ := c
    unfold Memory.write
    split
    · simp [Memory.read?, Ne.symm h]
    · split
      · rename_i _ heq
        subst heq
        simp [Memory.read?, Ne.symm h]
      · simp [Memory.read?, ih]

theorem Memory.mem_write {m : Memory} {a : Nat} {v : Byte} {c : Host.Cell} (h : c ∈ Memory.write m a v) :
    c = (a, v) ∨ c ∈ m := by
  induction m with
  | nil => simpa [Memory.write] using h
  | cons d rest ih =>
    obtain ⟨k, b⟩ := d
    unfold Memory.write at h
    split at h
    · simpa using h
    · split at h
      · rcases List.mem_cons.1 h with h | h
        · exact .inl h
        · exact .inr (List.mem_cons_of_mem _ h)
      · rcases List.mem_cons.1 h with h | h
        · exact .inr (h ▸ List.mem_cons_self)
        · exact (ih h).imp id (List.mem_cons_of_mem _)

theorem Memory.wf_nil : Memory.wf [] := by simp [Memory.wf]

/-- `MemWrite` inside the buffer keeps the canonical form. -/
theorem Memory.wf_write {m : Memory} {a : Nat} (v : Byte) (h : Memory.wf m) (ha : a < Config.bufSize) :
    Memory.wf (Memory.write m a v) := by
  refine ⟨?_, fun c hc => (Memory.mem_write hc).elim (fun e => e ▸ ha) (h.2 c)⟩
  have hs := h.1
  clear h
  induction m with
  | nil => simp [Memory.write]
  | cons c rest ih =>
    obtain ⟨k, b⟩ := c
    simp only [List.map_cons, List.pairwise_cons] at hs
    unfold Memory.write
    split
    · rename_i hlt
      simp only [List.map_cons, List.pairwise_cons]
      exact ⟨fun x hx => (List.mem_cons.1 hx).elim (fun e => e ▸ hlt) (fun hx => Nat.lt_trans hlt (hs.1 x hx)), hs⟩
    · split
      · rename_i _ heq
        subst heq
        simpa using hs
      · rename_i hnlt hne
        simp only [List.map_cons, List.pairwise_cons]
        refine ⟨fun x hx => ?_, ih hs.2⟩
        obtain ⟨d, hd, rfl⟩ := List.mem_map.1 hx
        rcases Memory.mem_write hd with rfl | hd
        · simp only; omega
        · exact hs.1 _ (List.mem_map_of_mem hd)

/-- An index that nothing has written since reset reads as the free value (93_implementation_defined.md U1). -/
theorem FrameBuf.byte_unwritten {b : FrameBuf} {i : Nat} (h : Memory.read? b.bytes i = none) :
    b.byte i = Config.bufInit b.epoch i := by
  simp [FrameBuf.byte, h]

@[simp] theorem FrameBuf.memWrite_epoch (b : FrameBuf) (a : Nat) (v : Byte) : (b.memWrite a v).epoch = b.epoch := rfl
@[simp] theorem FrameBuf.memWrite_bytes (b : FrameBuf) (a : Nat) (v : Byte) :
    (b.memWrite a v).bytes = Memory.write b.bytes a v := rfl

/-- `MemWrite` changes one byte of the buffer (20_memory.md R61). -/
theorem FrameBuf.byte_memWrite (b : FrameBuf) (a i : Nat) (v : Byte) :
    (b.memWrite a v).byte i = if i = a then v else b.byte i := by
  split
  · rename_i h
    subst h
    simp [FrameBuf.byte]
  · rename_i h
    simp [FrameBuf.byte, Memory.read?_write_other _ _ h]

@[simp] theorem FrameBuf.byte_memWrite_same (b : FrameBuf) (a : Nat) (v : Byte) : (b.memWrite a v).byte a = v := by
  simp [FrameBuf.byte_memWrite]

theorem FrameBuf.byte_memWrite_other (b : FrameBuf) {a i : Nat} (v : Byte) (h : i ≠ a) :
    (b.memWrite a v).byte i = b.byte i := by
  simp [FrameBuf.byte_memWrite, h]

end Sys2Proof.Machine
end

