-- ==== Sys2Proof/Laws/Steps.lean ====
section
/-! SUPPORT. One lemma per shared operation that says everything it can do. -/

namespace Sys2Proof.Machine

/-! ## The serial channel -/

theorem rxTake_nil {s : State} (h : s.rxq = []) : rxTake s = none := by simp [rxTake, h]

theorem rxTake_cons {s : State} {b : Byte} {rest : List Byte} (h : s.rxq = b :: rest) :
    rxTake s = some (b, s.setRxq rest) := by simp [rxTake, h]

/-! ## Engine steps -/

/-- `ErStore` changes the SER engine and the buffer (40_exact_reader.md R112). -/
theorem erStore_eq (b : Byte) (s : State) :
    erStore b s = (s.setBuf (s.buf.memWrite s.ser.total.toNat b)).setSer
      { s.ser with
        sum := if sumCovers s.ser then s.ser.sum + b else s.ser.sum
        total := s.ser.total + 1, cnt := s.ser.cnt + 1 } := rfl

@[simp] theorem erStore_buf (b : Byte) (s : State) :
    (erStore b s).buf = s.buf.memWrite s.ser.total.toNat b := rfl
@[simp] theorem erStore_ser (b : Byte) (s : State) :
    (erStore b s).ser =
      { s.ser with
        sum := if sumCovers s.ser then s.ser.sum + b else s.ser.sum
        total := s.ser.total + 1, cnt := s.ser.cnt + 1 } := rfl
@[simp] theorem scanStart_buf (b : Byte) (s : State) : (scanStart b s).buf = s.buf.memWrite 0 b := rfl
@[simp] theorem scanStart_ser (b : Byte) (s : State) :
    (scanStart b s).ser =
      { s.ser with total := 1, sum := Config.startMarker, phase := .header, need := 3, cnt := 0 } := rfl
@[simp] theorem scanStray_buf (s : State) : (scanStray s).buf = s.buf := rfl
@[simp] theorem scanStray_ser (s : State) :
    (scanStray s).ser = { s.ser with discard := discardNext s.ser.discard } := rfl

/-- The Exact Reader step does one of six things, in the order of 40_exact_reader.md R111. -/
theorem erStep_cases (done : State → State) (s : State) :
    (s.ser.cnt = s.ser.need ∧ erStep done s = done s) ∨
    (s.ser.cnt ≠ s.ser.need ∧ deadlineReached s = true ∧ erStep done s = raiseSer .timeout 0 s) ∨
    (s.ser.cnt ≠ s.ser.need ∧ deadlineReached s = false ∧ s.rxErr = true ∧ erStep done s = raiseSer .ioError 0 s) ∨
    (s.ser.cnt ≠ s.ser.need ∧ deadlineReached s = false ∧ s.rxErr = false ∧ s.rxq = [] ∧ erStep done s = s) ∨
    (∃ b rest, s.ser.cnt ≠ s.ser.need ∧ deadlineReached s = false ∧ s.rxErr = false ∧ s.rxq = b :: rest ∧
      s.ser.cnt + 1 = s.ser.need ∧ erStep done s = done (erStore b (s.setRxq rest))) ∨
    (∃ b rest, s.ser.cnt ≠ s.ser.need ∧ deadlineReached s = false ∧ s.rxErr = false ∧ s.rxq = b :: rest ∧
      s.ser.cnt + 1 ≠ s.ser.need ∧ erStep done s = erStore b (s.setRxq rest)) := by
  by_cases h1 : s.ser.cnt = s.ser.need
  · exact .inl ⟨h1, by simp [erStep, h1]⟩
  by_cases h2 : deadlineReached s = true
  · exact .inr (.inl ⟨h1, h2, by simp [erStep, h1, h2]⟩)
  have h2' : deadlineReached s = false := by simpa using h2
  by_cases h3 : s.rxErr = true
  · exact .inr (.inr (.inl ⟨h1, h2', h3, by simp [erStep, h1, h2', h3]⟩))
  have h3' : s.rxErr = false := by simpa using h3
  cases hq : s.rxq with
  | nil => exact .inr (.inr (.inr (.inl ⟨h1, h2', h3', rfl, by simp [erStep, h1, h2', h3', rxTake_nil hq]⟩)))
  | cons b rest =>
    by_cases h4 : s.ser.cnt + 1 = s.ser.need
    · exact .inr (.inr (.inr (.inr (.inl
        ⟨b, rest, h1, h2', h3', rfl, h4, by simp only [erStep, if_neg h1, h2', h3', rxTake_cons hq, Bool.false_eq_true, if_false]; exact if_pos h4⟩))))
    · exact .inr (.inr (.inr (.inr (.inr
        ⟨b, rest, h1, h2', h3', rfl, h4, by simp only [erStep, if_neg h1, h2', h3', rxTake_cons hq, Bool.false_eq_true, if_false]; exact if_neg h4⟩))))

/-- A scan step does one of five things, in the order of 41_frame_scanner.md R131. -/
theorem scanStep_cases (s : State) :
    (deadlineReached s = true ∧ scanStep s = raiseSer .timeout 0 s) ∨
    (deadlineReached s = false ∧ s.rxErr = true ∧ scanStep s = raiseSer .ioError 0 s) ∨
    (deadlineReached s = false ∧ s.rxErr = false ∧ s.rxq = [] ∧ scanStep s = s) ∨
    (∃ rest, deadlineReached s = false ∧ s.rxErr = false ∧ s.rxq = Config.startMarker :: rest ∧
      scanStep s = scanStart Config.startMarker (s.setRxq rest)) ∨
    (∃ b rest, deadlineReached s = false ∧ s.rxErr = false ∧ s.rxq = b :: rest ∧ b ≠ Config.startMarker ∧
      scanStep s = scanStray (s.setRxq rest)) := by
  by_cases h2 : deadlineReached s = true
  · exact .inl ⟨h2, by simp [scanStep, h2]⟩
  have h2' : deadlineReached s = false := by simpa using h2
  by_cases h3 : s.rxErr = true
  · exact .inr (.inl ⟨h2', h3, by simp [scanStep, h2', h3]⟩)
  have h3' : s.rxErr = false := by simpa using h3
  cases hq : s.rxq with
  | nil => exact .inr (.inr (.inl ⟨h2', h3', rfl, by simp [scanStep, h2', h3', rxTake_nil hq]⟩))
  | cons b rest =>
    by_cases h4 : b = Config.startMarker
    · subst h4
      exact .inr (.inr (.inr (.inl ⟨rest, h2', h3', rfl, by simp [scanStep, h2', h3', rxTake_cons hq]⟩)))
    · exact .inr (.inr (.inr (.inr
        ⟨b, rest, h2', h3', rfl, h4, by simp [scanStep, h2', h3', rxTake_cons hq, h4]⟩)))

/-- A poll step does one of five things (42_conversion_poller.md R162). -/
theorem pollStep_cases (answer : Option BusAnswer) (s : State) :
    (answer = none ∧ pollStep answer s = s) ∨
    (answer = some .err ∧ pollStep answer s = raiseBus .ioError 0 (busPerform .read3 s)) ∨
    (∃ b0 b1 b2, answer = some (.ok b0 b1 b2) ∧ ready b2 = true ∧
      pollStep answer s = raiseBus .ok 0 ((busPerform .read3 s).setBus (pollRecord b0 b1 b2 s.bus))) ∨
    (∃ b0 b1 b2, answer = some (.ok b0 b1 b2) ∧ ready b2 = false ∧ s.bus.reads + 1 = s.bus.maxr ∧
      pollStep answer s =
        raiseBus .conversionTimeout 0 ((busPerform .read3 s).setBus (pollRecord b0 b1 b2 s.bus))) ∨
    (∃ b0 b1 b2, answer = some (.ok b0 b1 b2) ∧ ready b2 = false ∧ s.bus.reads + 1 ≠ s.bus.maxr ∧
      pollStep answer s = (busPerform .read3 s).setBus (pollRecord b0 b1 b2 s.bus)) := by
  match answer with
  | none => exact .inl ⟨rfl, rfl⟩
  | some .err => exact .inr (.inl ⟨rfl, rfl⟩)
  | some (.ok b0 b1 b2) =>
    by_cases h : ready b2 = true
    · exact .inr (.inr (.inl ⟨b0, b1, b2, rfl, h, by simp [pollStep, h]⟩))
    have h' : ready b2 = false := by simpa using h
    by_cases h2 : s.bus.reads + 1 = s.bus.maxr
    · exact .inr (.inr (.inr (.inl ⟨b0, b1, b2, rfl, h', h2, by simp only [pollStep, h', Bool.false_eq_true, if_false]; exact if_pos h2⟩)))
    · exact .inr (.inr (.inr (.inr ⟨b0, b1, b2, rfl, h', h2, by simp only [pollStep, h', Bool.false_eq_true, if_false]; exact if_neg h2⟩)))

/-! ## Issuing -/

theorem issueSer_busy {s : State} (w : Word) (init : SerEngine → SerEngine) (h : s.ser.st.busy = true) :
    issueSer w init s = s.setSer { s.ser with st := s.ser.st.reject } := by
  simp [issueSer, h]

theorem issueSer_ok {s : State} {w : Word} {i : Instr} (init : SerEngine → SerEngine) (h : s.ser.st.busy = false)
    (hd : decode .ser w = .ok i) :
    issueSer w init s = s.setSer (init { acceptSer w s with st := (acceptSer w s).st.start }) := by
  simp [issueSer, h, hd]

theorem issueSer_error {s : State} {w : Word} {d : CmdError} (init : SerEngine → SerEngine)
    (h : s.ser.st.busy = false) (hd : decode .ser w = .error d) :
    issueSer w init s =
      raiseSer .illegalCommand d.detail (s.setSer { acceptSer w s with phase := .idle }) := by
  simp [issueSer, h, hd]

theorem issueBus_busy {s : State} (w : Word) (init : BusEngine → BusEngine) (h : s.bus.st.busy = true) :
    issueBus w init s = s.setBus { s.bus with st := s.bus.st.reject } := by
  simp [issueBus, h]

theorem issueBus_ok {s : State} {w : Word} {i : Instr} (init : BusEngine → BusEngine) (h : s.bus.st.busy = false)
    (hd : decode .bus w = .ok i) :
    issueBus w init s = s.setBus (init { acceptBus w s with st := (acceptBus w s).st.start }) := by
  simp [issueBus, h, hd]

theorem issueBus_error {s : State} {w : Word} {d : CmdError} (init : BusEngine → BusEngine)
    (h : s.bus.st.busy = false) (hd : decode .bus w = .error d) :
    issueBus w init s =
      raiseBus .illegalCommand d.detail (s.setBus { acceptBus w s with phase := .idle }) := by
  simp [issueBus, h, hd]

/-! ## The meanings, by turn and phase -/

/-- The issue of a SER command runs `HostWriteCmd` (43_host_access.md R183). -/
theorem execSerReadn_issue {s : State} (n : Half) (h : s.turn = .issue) :
    execSerReadn n s = .next (issueSer (encode (.serReadn n)) (readnInit n) s) := by
  simp [execSerReadn, h]

theorem execSerReadn_engine {s : State} {a : Option BusAnswer} (n : Half) (h : s.turn = .engine a)
    (hp : s.ser.phase = .readn) : execSerReadn n s = .next (erStep readnDone s) := by
  simp [execSerReadn, h, hp]

theorem execSerFrame_issue {s : State} (h : s.turn = .issue) :
    execSerFrame s = .next (issueSer (encode .serFrame) frameInit s) := by
  simp [execSerFrame, h]

theorem execSerFrame_scan {s : State} {a : Option BusAnswer} (h : s.turn = .engine a) (hp : s.ser.phase = .scan) :
    execSerFrame s = .next (scanStep s) := by
  simp [execSerFrame, h, hp]

theorem execSerFrame_header {s : State} {a : Option BusAnswer} (h : s.turn = .engine a)
    (hp : s.ser.phase = .header) : execSerFrame s = .next (erStep headerDone s) := by
  simp [execSerFrame, h, hp]

theorem execSerFrame_tail {s : State} {a : Option BusAnswer} (h : s.turn = .engine a) (hp : s.ser.phase = .tail) :
    execSerFrame s = .next (erStep tailDone s) := by
  simp [execSerFrame, h, hp]

theorem execBusConvertWind_issue {s : State} (m : Half) (h : s.turn = .issue) :
    execBusConvertWind m s = .next (issueBus (encode (.busConvertWind m)) (convertInit m) s) := by
  simp [execBusConvertWind, h]

theorem execBusConvertWind_engine {s : State} {a : Option BusAnswer} (m : Half) (h : s.turn = .engine a) :
    execBusConvertWind m s = convertStep a s := by
  simp [execBusConvertWind, h]

theorem execBusConvertCur_issue {s : State} (m : Half) (h : s.turn = .issue) :
    execBusConvertCur m s = .next (issueBus (encode (.busConvertCur m)) (convertInit m) s) := by
  simp [execBusConvertCur, h]

theorem execBusConvertCur_engine {s : State} {a : Option BusAnswer} (m : Half) (h : s.turn = .engine a) :
    execBusConvertCur m s = convertStep a s := by
  simp [execBusConvertCur, h]

/-! ## One step -/

@[simp] theorem Move.turn_ser : Move.ser.turn = .engine none := rfl
@[simp] theorem Move.turn_bus (a : Option BusAnswer) : (Move.bus a).turn = .engine a := rfl
@[simp] theorem Move.turn_hostWrite (n : Nat) (o : Offset) (v : Word) : (Move.hostWrite n o v).turn = .issue := rfl

/-- The step of a placed move makes that move. -/
theorem step_placed {s : State} {m : Move} {rest : List Move} (h : s.pending = m :: rest) :
    step s = makeMove m { s with pending := rest, turn := m.turn } := by
  simp [step, nextMove, takeMove, h]

/-- Taking a move changes nothing but which moves are to come. -/
theorem takeMove_fields (s : State) :
    (takeMove s).ser = s.ser ∧ (takeMove s).bus = s.bus ∧ (takeMove s).dlLo = s.dlLo ∧ (takeMove s).dlHi = s.dlHi ∧
    (takeMove s).now = s.now ∧ (takeMove s).buf = s.buf ∧
    (takeMove s).rxq = s.rxq ∧ (takeMove s).rxErr = s.rxErr ∧ (takeMove s).busTrace = s.busTrace ∧
    (takeMove s).hostV = s.hostV := by
  simp only [takeMove]
  split <;> simp

/-- The turn in which a move is made is that move's. -/
theorem takeMove_turn (s : State) : (takeMove s).turn = (nextMove s).turn := by
  simp only [takeMove, nextMove]
  split <;> rfl

/-- Every register is found at its offset (10_state.md R23). -/
theorem regAt_offset (r : HostReg) : regAt r.offset = some r := by
  cases r <;> decide

/-- Only a register's own offset is its offset. -/
theorem offset_of_regAt {off : Offset} {r : HostReg} (h : regAt off = some r) : off = r.offset := by
  have := List.find?_some h
  simpa using (beq_iff_eq.1 this).symm

end Sys2Proof.Machine
end

