-- ==== Sys2Proof/Laws/Asm.lean ====
section
/-! SUPPORT. What the values that host programs form say of the block (30_encoding.md R97). -/

namespace Sys2Proof.Machine

/-! ## Runs of CLOCK steps and reads -/

theorem runMoves_nil (s : State) : runMoves [] s = .next s := rfl

theorem runMoves_clock (ms : List Move) (s : State) :
    runMoves (.clock :: ms) s = runMoves ms { s with now := s.now + 1, turn := .issue } := rfl

/-- After CLOCK steps only TIME has moved (10_state.md R38). -/
theorem runMoves_clocks (n : Nat) (s : State) :
    ∃ t, runMoves (List.replicate n .clock) s = .next t ∧ t.now = s.now + BitVec.ofNat 64 n := by
  induction n generalizing s with
  | zero => exact ⟨s, rfl, by simp⟩
  | succ n ih =>
    obtain ⟨t, h, e⟩ := ih { s with now := s.now + 1, turn := .issue }
    refine ⟨t, h, ?_⟩
    rw [e, Nat.add_comm n 1, BitVec.ofNat_add, ← BitVec.add_assoc]
    rfl

/-- A HOST read of a register gives its value and changes nothing of the block (43_host_access.md R180). -/
theorem runMoves_rd (r : HostReg) (s : State) :
    runMoves [rd r.offset] s = .next { s with hostV := regValue s r, turn := .issue } := by
  cases r <;> rfl

/-- What a read after other agents' moves gives: the register's value in the state they leave. -/
theorem rdAfter_reg {others : List Move} {r : HostReg} {s u : State} {v : Word}
    (h : rdAfter others r.offset s = some (v, u)) :
    ∃ t, runMoves others s = .next t ∧ v = regValue t r ∧ u = { t with hostV := v, turn := .issue } := by
  unfold rdAfter at h
  split at h
  · rename_i t ht
    rw [runMoves_rd] at h
    cases h
    exact ⟨t, ht, rfl, rfl⟩
  · cases h
  · cases h

/-- A read after CLOCK steps completes. -/
theorem rdAfter_clocks (n : Nat) (r : HostReg) (s : State) :
    ∃ t, rdAfter (List.replicate n .clock) r.offset s = some (regValue t r, { t with hostV := regValue t r, turn := .issue }) ∧
      t.now = s.now + BitVec.ofNat 64 n := by
  obtain ⟨t, h, e⟩ := runMoves_clocks n s
  exact ⟨t, by simp [rdAfter, h, runMoves_rd], e⟩

/-! ## `wait.*` -/

/-- `wait.*` ends with the STATUS word of an engine that is not busy, read last (30_encoding.md R97). -/
theorem waitFor_not_busy {e : Engine} {gaps : List (List Move)} {s t : State} {v : Word}
    (h : waitFor e gaps s = some (v, t)) : v.getLsbD 0 = false ∧ v = regValue t (statusReg e) := by
  induction gaps generalizing s with
  | nil => cases h
  | cons g gs ih =>
    unfold waitFor at h
    split at h
    · rename_i w u hr
      split at h
      · rename_i hd
        cases h
        obtain ⟨t', _, hv, ht⟩ := rdAfter_reg hr
        refine ⟨by simpa [waitDone] using hd, ?_⟩
        rw [ht, hv]
        cases e <;> rfl
      · exact ih h
    · cases h

/-! ## `rdtime` -/

theorem rdtimeValue_eq_some {h1 lo h2 : Word} {v : Time} (h : rdtimeValue h1 lo h2 = some v) :
    h1 = h2 ∧ v = h2 ++ lo := by
  unfold rdtimeValue at h
  split at h
  · cases h
  · rename_i hne
    cases h
    exact ⟨by simpa using hne, rfl⟩

/-- The two halves of a time, as numbers. -/
theorem timeHi_toNat (s : State) : (regValue s .timeHi).toNat = s.now.toNat / 2 ^ 32 := by
  have := s.now.isLt
  simp [regValue, Nat.shiftRight_eq_div_pow]
  omega

theorem timeLo_toNat (s : State) : (regValue s .timeLo).toNat = s.now.toNat % 2 ^ 32 := by
  simp [regValue]

/-- The value that `rdtime` forms is the one TIME held at its read of TIME_LO, where TIME advances by less than 2^32 ticks
within the iteration (30_encoding.md R97): `t1`, `t2`, `t3` are the states at the three reads. -/
theorem rdtimeValue_is_time {t1 t2 t3 : State} {a b : Nat} {v : Time}
    (h12 : t2.now = t1.now + BitVec.ofNat 64 a) (h23 : t3.now = t2.now + BitVec.ofNat 64 b) (hab : a + b < 2 ^ 32)
    (h : rdtimeValue (regValue t1 .timeHi) (regValue t2 .timeLo) (regValue t3 .timeHi) = some v) : v = t2.now := by
  obtain ⟨hh, rfl⟩ := rdtimeValue_eq_some h
  have hn := congrArg BitVec.toNat hh
  rw [timeHi_toNat, timeHi_toNat, h23, h12] at hn
  apply BitVec.eq_of_toNat_eq
  rw [append_toNat, timeHi_toNat, timeLo_toNat, h23, h12]
  have := t1.now.isLt
  simp only [BitVec.toNat_add, BitVec.toNat_ofNat] at hn ⊢
  omega

/-- `rdtime` whose one iteration sees `k` CLOCK steps before its first read, `a` before its second and `b` before its
third forms the value TIME held at its second read, or goes on (30_encoding.md R97). -/
theorem rdtimeIter_clocks (k a b : Nat) (s : State) (hab : a + b < 2 ^ 32) :
    ∃ r t, rdtimeIter (List.replicate k .clock) (List.replicate a .clock) (List.replicate b .clock) s = some (r, t) ∧
      t.now = s.now + BitVec.ofNat 64 (k + a + b) ∧
      ∀ v, r = some v → v = s.now + BitVec.ofNat 64 (k + a) := by
  obtain ⟨t1, h1, e1⟩ := rdAfter_clocks k .timeHi s
  obtain ⟨t2, h2, e2⟩ := rdAfter_clocks a .timeLo { t1 with hostV := regValue t1 .timeHi, turn := .issue }
  obtain ⟨t3, h3, e3⟩ := rdAfter_clocks b .timeHi { t2 with hostV := regValue t2 .timeLo, turn := .issue }
  refine ⟨_, _, by simp only [rdtimeIter, h1, h2, h3]; rfl, ?_, fun v hv => ?_⟩
  · simp only at e2 e3 ⊢
    rw [e3, e2, e1, BitVec.add_assoc, BitVec.add_assoc, ← BitVec.ofNat_add, ← BitVec.ofNat_add, Nat.add_assoc]
  · rw [rdtimeValue_is_time e2 e3 hab hv]
    simp only at e2
    rw [e2, e1, BitVec.add_assoc, ← BitVec.ofNat_add]

/-- What `rdtime` gives, one of its iterations formed. -/
theorem rdtime_eq_some {gaps : List (List Move × List Move × List Move)} {s t : State} {v : Time}
    (h : rdtime gaps s = some (v, t)) :
    ∃ g ∈ gaps, ∃ s', rdtimeIter g.1 g.2.1 g.2.2 s' = some (some v, t) := by
  induction gaps generalizing s with
  | nil => cases h
  | cons g gs ih =>
    unfold rdtime at h
    split at h
    · rename_i w u hi
      cases h
      exact ⟨g, by simp, s, hi⟩
    · obtain ⟨g', hg, k⟩ := ih h
      exact ⟨g', by simp [hg], k⟩
    · cases h

end Sys2Proof.Machine
end

