-- ==== Sys2Proof/Laws/Buffer.lean ====
section
/-! SUPPORT. Reading the frame buffer as numbers, as frame fields and as a running Checksum8. -/

namespace Sys2Proof.Machine

theorem FrameBuf.memRead_one (b : FrameBuf) (a : Nat) : b.memRead a 1 = (b.byte a).toNat := by
  simp [FrameBuf.memRead]

theorem FrameBuf.memRead_two (b : FrameBuf) (a : Nat) :
    b.memRead a 2 = (b.byte a).toNat + 256 * (b.byte (a + 1)).toNat := by
  simp [FrameBuf.memRead]

theorem FrameBuf.memRead_four (b : FrameBuf) (a : Nat) :
    b.memRead a 4 = (b.byte a).toNat + 256 * ((b.byte (a + 1)).toNat + 256 * ((b.byte (a + 2)).toNat +
      256 * (b.byte (a + 3)).toNat)) := by
  simp [FrameBuf.memRead]

theorem frameKind_eq (b : FrameBuf) : frameKind b = b.byte 1 := by
  simp [frameKind, FrameBuf.memRead_one]

theorem frameEnd_eq (b : FrameBuf) (size : Half) : frameEnd b size = b.byte (size.toNat - 1) := by
  simp [frameEnd, FrameBuf.memRead_one]

theorem frameSize_toNat (b : FrameBuf) : (frameSize b).toNat = (b.byte 2).toNat + 256 * (b.byte 3).toNat := by
  have h2 := (b.byte 2).isLt
  have h3 := (b.byte 3).isLt
  simp only [frameSize, FrameBuf.memRead_two, BitVec.toNat_ofNat, Nat.reduceAdd]
  omega

/-- The declared size is its two bytes side by side, the second on the left (30_encoding.md R90). -/
theorem frameSize_eq (b : FrameBuf) : frameSize b = b.byte 3 ++ b.byte 2 := by
  apply BitVec.eq_of_toNat_eq
  rw [frameSize_toNat, append_toNat]
  omega

theorem frameSize_congr {b c : FrameBuf} (h2 : c.byte 2 = b.byte 2) (h3 : c.byte 3 = b.byte 3) :
    frameSize c = frameSize b := by
  simp [frameSize_eq, h2, h3]

theorem bufSum_congr {b c : FrameBuf} {n : Nat} (h : ∀ i, i < n → c.byte i = b.byte i) : bufSum c n = bufSum b n := by
  induction n with
  | zero => rfl
  | succ n ih =>
    simp only [bufSum]
    rw [ih fun i hi => h i (Nat.lt_succ_of_lt hi), h n (Nat.lt_succ_self n)]

/-- The Checksum8 up to and with a byte just stored (40_exact_reader.md R112). -/
theorem bufSum_memWrite (b : FrameBuf) (n : Nat) (v : Byte) :
    bufSum (b.memWrite n v) (n + 1) = bufSum b n + v := by
  simp only [bufSum, FrameBuf.byte_memWrite_same]
  rw [bufSum_congr fun i hi => FrameBuf.byte_memWrite_other b v (by omega)]

end Sys2Proof.Machine
end

