-- ==== Sys2Proof/Laws/Inv.lean ====
section
/-! SUPPORT. The engine invariants, as their three cases: running, ended, untouched since reset. -/

namespace Sys2Proof.Machine

theorem SerInv_running {e : SerEngine} {b : FrameBuf} (hb : e.st.busy = true) :
    SerInv e b ↔ e.st.done = false ∧ e.st.result = .ok ∧ e.st.detail = 0 ∧ SerRunning e b := by
  simp [SerInv, hb]

theorem SerInv_ended {e : SerEngine} {b : FrameBuf} (hb : e.st.busy = false) (hd : e.st.done = true) :
    SerInv e b ↔ SerEnded e b := by
  simp [SerInv, hb, hd]

theorem SerInv_reset (b : FrameBuf) : SerInv SerEngine.reset b := by
  simp [SerInv, SerEngine.reset, Status.reset]

theorem BusInv_running {e : BusEngine} (hb : e.st.busy = true) :
    BusInv e ↔ e.st.done = false ∧ e.st.result = .ok ∧ e.st.detail = 0 ∧ BusRunning e := by
  simp [BusInv, hb]

theorem BusInv_ended {e : BusEngine} (hb : e.st.busy = false) (hd : e.st.done = true) : BusInv e ↔ BusEnded e := by
  simp [BusInv, hb, hd]

theorem BusInv_reset : BusInv BusEngine.reset := by
  simp [BusInv, BusEngine.reset, Status.reset]

/-- A count below another counts up without wrapping. -/
theorem toNat_succ_of_lt {a b : Half} (h : a < b) : (a + 1).toNat = a.toNat + 1 := by
  have := b.isLt
  simp only [BitVec.lt_def] at h
  simp [BitVec.toNat_add]
  omega

/-- A count below another that is not its predecessor stays below it. -/
theorem succ_lt_of_ne {a b : Half} (h : a < b) (hne : a + 1 ≠ b) : a + 1 < b := by
  have e := toNat_succ_of_lt h
  have h' : (a + 1).toNat ≠ b.toNat := fun k => hne (BitVec.eq_of_toNat_eq k)
  simp only [BitVec.lt_def] at h ⊢
  omega

end Sys2Proof.Machine
end

