-- ==== Sys2Proof/Laws/Engines.lean ====
section
/-! SUPPORT. One engine step of a busy engine keeps that engine consistent, phase by phase. -/

namespace Sys2Proof.Machine

/-! ## SER -/

theorem SerInv_of_running {s : State} (hb : s.ser.st.busy = true) (h1 : s.ser.st.done = false)
    (h2 : s.ser.st.result = .ok) (h3 : s.ser.st.detail = 0) (h : SerRunning s.ser s.buf) : SerInv s.ser s.buf :=
  (SerInv_running hb).2 ⟨h1, h2, h3, h⟩

theorem SerInv_raiseSer {s : State} (r : Result) (d : BitVec 2) (h : SerEnded (raiseSer r d s).ser s.buf) :
    SerInv (raiseSer r d s).ser (raiseSer r d s).buf :=
  (SerInv_ended rfl rfl).2 h

/-- A scan step keeps the SER engine consistent (41_frame_scanner.md R131). -/
theorem scanStep_inv {s : State} (h : SerInv s.ser s.buf)
    (hb : s.ser.st.busy = true) (hp : s.ser.phase = .scan) :
    SerInv (scanStep s).ser (scanStep s).buf := by
  obtain ⟨h1, h2, h3, hr⟩ := (SerInv_running hb).1 h
  simp only [SerRunning, hp] at hr
  rcases scanStep_cases s with
      ⟨_, e⟩
      | ⟨_, _, e⟩
      | ⟨_, _, _, e⟩
      | ⟨rest, _, _, hq, e⟩
      | ⟨b, rest, _, _, hq, hne, e⟩ <;>
    rw [e]
  · refine SerInv_raiseSer _ _ ?_
    simpa [SerEnded, hp, WaitEnded, ScanFacts] using hr
  · refine SerInv_raiseSer _ _ ?_
    simpa [SerEnded, hp, WaitEnded, ScanFacts] using hr
  · exact h
  · refine SerInv_of_running (s := scanStart _ _) hb h1 h2 h3 ?_
    obtain ⟨hd, _, _, _, _, he, hk, hs⟩ := hr
    simp [SerRunning, HeaderFacts, hd, he, hk, hs, bufSum]
  · refine SerInv_of_running (s := scanStray _) hb h1 h2 h3 ?_
    simpa [SerRunning, hp, ScanFacts] using hr

/-- An engine step of READN keeps the SER engine consistent (40_exact_reader.md R111 to R114). -/
theorem readnStep_inv {s : State} (h : SerInv s.ser s.buf)
    (hb : s.ser.st.busy = true) (hp : s.ser.phase = .readn) :
    SerInv (erStep readnDone s).ser (erStep readnDone s).buf := by
  obtain ⟨h1, h2, h3, hr⟩ := (SerInv_running hb).1 h
  simp only [SerRunning, hp, ReadnFacts] at hr
  obtain ⟨⟨hd, hc, ht, hs, he, hk, hz, hdi⟩, hlt⟩ := hr
  have hne : ∀ {P : Prop}, s.ser.cnt ≠ s.ser.need → (s.ser.cnt < s.ser.need → P) → P := by
    intro P hne k
    rcases hlt with hlt | h0
    · exact k hlt
    · rw [h0] at hc hne; exact absurd (BitVec.le_zero_iff.1 hc) hne
  have hsc : sumCovers s.ser = true := by simp [sumCovers, hp]
  rcases erStep_cases readnDone s with
      ⟨hcn, e⟩
      | ⟨hcn, _, e⟩
      | ⟨hcn, _, _, e⟩
      | ⟨hcn, _, _, _, e⟩
      | ⟨b, rest, hcn, _, _, hq, hc', e⟩
      | ⟨b, rest, hcn, _, _, hq, hc', e⟩ <;>
    rw [e]
  · refine SerInv_raiseSer _ _ ?_
    simp only [SerEnded, raiseSer_ser, hp, ReadnFacts]
    exact ⟨⟨hd, hc, ht, hs, he, hk, hz, hdi⟩, .inl ⟨hcn, rfl, rfl⟩⟩
  · refine SerInv_raiseSer _ _ (hne hcn fun hl => ?_)
    simp only [SerEnded, raiseSer_ser, hp, ReadnFacts]
    exact ⟨⟨hd, hc, ht, hs, he, hk, hz, hdi⟩, .inr ⟨hl, .inl rfl, rfl⟩⟩
  · refine SerInv_raiseSer _ _ (hne hcn fun hl => ?_)
    simp only [SerEnded, raiseSer_ser, hp, ReadnFacts]
    exact ⟨⟨hd, hc, ht, hs, he, hk, hz, hdi⟩, .inr ⟨hl, .inr rfl, rfl⟩⟩
  · exact h
  · refine SerInv_raiseSer _ _ (hne hcn fun hl => ?_)
    have e1 := toNat_succ_of_lt hl
    simp only [SerEnded, raiseSer_ser, erStore_ser, erStore_buf, State.setRxq_buf, State.setRxq_ser, hp, ReadnFacts, hsc, if_true]
    refine ⟨⟨hd, by rw [hc']; exact BitVec.le_refl _, by rw [ht], ?_, he, hk, hz, hdi⟩, .inl ⟨hc', rfl, rfl⟩⟩
    rw [ht, e1, ← ht, bufSum_memWrite, hs]
  · refine hne hcn fun hl => ?_
    have e1 := toNat_succ_of_lt hl
    refine SerInv_of_running (s := erStore _ _) hb h1 h2 h3 ?_
    simp only [SerRunning, erStore_ser, erStore_buf, State.setRxq_buf, State.setRxq_ser, hp, ReadnFacts, hsc, if_true]
    refine ⟨⟨hd, BitVec.le_of_lt (succ_lt_of_ne hl hc'), by rw [ht], ?_, he, hk, hz, hdi⟩, .inl (succ_lt_of_ne hl hc')⟩
    rw [ht, e1, ← ht, bufSum_memWrite, hs]

/-- An engine step of HEADER keeps the SER engine consistent (41_frame_scanner.md R132, R133). -/
theorem headerStep_inv {s : State} (h : SerInv s.ser s.buf)
    (hb : s.ser.st.busy = true) (hp : s.ser.phase = .header) :
    SerInv (erStep headerDone s).ser (erStep headerDone s).buf := by
  obtain ⟨h1, h2, h3, hr⟩ := (SerInv_running hb).1 h
  simp only [SerRunning, hp, HeaderFacts] at hr
  obtain ⟨⟨hd, hn, hc, ht, hs, he, h0⟩, hl, hk, hz⟩ := hr
  have hl' : s.ser.cnt < s.ser.need := by rw [hn]; exact hl
  have e1 := toNat_succ_of_lt hl'
  have hc3 : s.ser.cnt.toNat < 3 := by simpa [BitVec.lt_def] using hl
  have htn : s.ser.total.toNat = s.ser.cnt.toNat + 1 := by rw [ht, e1]
  have htn1 : (s.ser.total + 1).toNat = s.ser.total.toNat + 1 := by
    have := s.ser.total.isLt
    simp only [BitVec.toNat_add]; simp; omega
  have hsc : sumCovers s.ser = true := by simp [sumCovers, hp]
  rcases erStep_cases headerDone s with
      ⟨hcn, e⟩
      | ⟨hcn, _, e⟩
      | ⟨hcn, _, _, e⟩
      | ⟨hcn, _, _, _, e⟩
      | ⟨b, rest, hcn, _, _, hq, hc', e⟩
      | ⟨b, rest, hcn, _, _, hq, hc', e⟩ <;>
    rw [e]
  · rw [hcn] at hl'; exact absurd hl' (BitVec.lt_irrefl _)
  · refine SerInv_raiseSer _ _ ?_
    simp only [SerEnded, raiseSer_ser, hp, HeaderFacts]
    exact ⟨⟨hd, hn, hc, ht, hs, he, h0⟩, .inl ⟨hl, hk, hz, .inl rfl, rfl⟩⟩
  · refine SerInv_raiseSer _ _ ?_
    simp only [SerEnded, raiseSer_ser, hp, HeaderFacts]
    exact ⟨⟨hd, hn, hc, ht, hs, he, h0⟩, .inl ⟨hl, hk, hz, .inr rfl, rfl⟩⟩
  · exact h
  all_goals
    have h00 : (s.buf.memWrite s.ser.total.toNat b).byte 0 = Config.startMarker := by
      rw [FrameBuf.byte_memWrite_other _ _ (by omega)]; exact h0
    have hss : (s.ser.sum + b) = bufSum (s.buf.memWrite s.ser.total.toNat b) (s.ser.total + 1).toNat := by
      rw [htn1, bufSum_memWrite, hs]
  · have hcc : s.ser.cnt + 1 = 3 := by rw [hc', hn]
    have h4 : s.ser.total + 1 = 4 := by rw [ht, hcc]; rfl
    unfold headerDone
    split
    · rename_i hsz
      refine SerInv_raiseSer _ _ ?_
      simp only [SerEnded, raiseSer_ser, State.setSer_buf, State.setSer_ser, erStore_ser, erStore_buf, State.setRxq_ser, State.setRxq_buf, hp, HeaderFacts, hsc, if_true]
      exact ⟨⟨hd, hn, by rw [hcc]; decide, by rw [ht], hss, he, h00⟩, .inr ⟨hcc, ⟨frameKind_eq _, rfl⟩, hsz, rfl, rfl⟩⟩
    · rename_i hsz
      refine SerInv_of_running (s := State.setSer _ _) hb h1 h2 h3 ?_
      simp only [erStore_buf, State.setRxq_ser, State.setRxq_buf] at hsz
      simp only [SerRunning, State.setSer_ser, State.setSer_buf, erStore_ser, erStore_buf, State.setRxq_ser, State.setRxq_buf, TailFacts, hsc, if_true]
      generalize hg : s.buf.memWrite s.ser.total.toNat b = g at *
      have hsz' : 6 ≤ (frameSize g).toNat := by
        simpa [BitVec.lt_def, Config.minSize] using hsz
      have := (frameSize g).isLt
      refine ⟨⟨hd, by simpa [BitVec.le_def] using hsz', ⟨frameKind_eq _, by trivial⟩, by trivial, by simp [BitVec.le_def], by rw [h4]; rfl, h00⟩, ?_, hss, he⟩
      simp [BitVec.lt_def, BitVec.toNat_sub]; omega
  · have h6 := succ_lt_of_ne hl' hc'
    rw [hn] at h6
    refine SerInv_of_running (s := erStore _ _) hb h1 h2 h3 ?_
    simp only [SerRunning, erStore_ser, erStore_buf, State.setRxq_ser, State.setRxq_buf, hp, HeaderFacts, hsc, if_true]
    exact ⟨⟨hd, hn, BitVec.le_of_lt h6, by rw [ht], hss, he, h00⟩, h6, hk, hz⟩

/-- An engine step of TAIL keeps the SER engine consistent (41_frame_scanner.md R134, R135). -/
theorem tailStep_inv {s : State} (h : SerInv s.ser s.buf)
    (hb : s.ser.st.busy = true) (hp : s.ser.phase = .tail) :
    SerInv (erStep tailDone s).ser (erStep tailDone s).buf := by
  obtain ⟨h1, h2, h3, hr⟩ := (SerInv_running hb).1 h
  simp only [SerRunning, hp, TailFacts, HeaderRecorded] at hr
  obtain ⟨⟨hd, h6, ⟨hk, hz⟩, hn, hc, ht, h0⟩, hl', hs, he⟩ := hr
  have e1 := toNat_succ_of_lt hl'
  have h6' : 6 ≤ s.ser.size.toNat := by simpa [BitVec.le_def] using h6
  have hszl := s.ser.size.isLt
  have hn' : s.ser.need.toNat = s.ser.size.toNat - 4 := by
    rw [hn]; simp [BitVec.toNat_sub]; omega
  have hcl : s.ser.cnt.toNat < s.ser.need.toNat := by simpa [BitVec.lt_def] using hl'
  have htn : s.ser.total.toNat = s.ser.cnt.toNat + 4 := by
    rw [ht]; simp [BitVec.toNat_add]; omega
  have htn1 : (s.ser.total + 1).toNat = s.ser.total.toNat + 1 := by
    simp only [BitVec.toNat_add]; simp; omega
  have ht1 : s.ser.total + 1 = s.ser.cnt + 1 + 4 := by rw [ht]; ac_rfl
  rcases erStep_cases tailDone s with
      ⟨hcn, e⟩
      | ⟨hcn, _, e⟩
      | ⟨hcn, _, _, e⟩
      | ⟨hcn, _, _, _, e⟩
      | ⟨b, rest, hcn, _, _, hq, hc', e⟩
      | ⟨b, rest, hcn, _, _, hq, hc', e⟩ <;>
    rw [e]
  · rw [hcn] at hl'; exact absurd hl' (BitVec.lt_irrefl _)
  · refine SerInv_raiseSer _ _ ?_
    simp only [SerEnded, raiseSer_ser, hp, TailFacts, HeaderRecorded]
    exact ⟨⟨hd, h6, ⟨hk, hz⟩, hn, hc, ht, h0⟩, hl', hs, he, .inl rfl, rfl⟩
  · refine SerInv_raiseSer _ _ ?_
    simp only [SerEnded, raiseSer_ser, hp, TailFacts, HeaderRecorded]
    exact ⟨⟨hd, h6, ⟨hk, hz⟩, hn, hc, ht, h0⟩, hl', hs, he, .inr rfl, rfl⟩
  · exact h
  all_goals
    have hby : ∀ i, i ≠ s.ser.total.toNat → (s.buf.memWrite s.ser.total.toNat b).byte i = s.buf.byte i :=
      fun i hi => FrameBuf.byte_memWrite_other _ _ hi
    have hfs : frameSize (s.buf.memWrite s.ser.total.toNat b) = frameSize s.buf := frameSize_congr (hby _ (by omega)) (hby _ (by omega))
  · have hcc : s.ser.cnt.toNat + 1 = s.ser.need.toNat := by rw [← e1, hc']
    have hnc : sumCovers s.ser = false := by simp [sumCovers, hp]; omega
    have hsum : s.ser.sum = bufSum (s.buf.memWrite s.ser.total.toNat b) (s.ser.size.toNat - 1) := by
      rw [hs, show s.ser.size.toNat - 1 = s.ser.total.toNat by omega]
      exact (bufSum_congr fun i hi => hby i (by omega)).symm
    unfold tailDone
    have hT : ∀ st, TailFacts { s.ser with phase := .check, cnt := s.ser.cnt + 1, total := s.ser.total + 1, endb := (s.buf.memWrite s.ser.total.toNat b).byte (s.ser.size.toNat - 1), st := st } (s.buf.memWrite s.ser.total.toNat b) := fun st =>
      ⟨hd, h6, ⟨by rw [hby 1 (by omega)]; exact hk, by rw [hfs]; exact hz⟩, hn, by rw [hc']; exact BitVec.le_refl _, ht1, by rw [hby 0 (by omega)]; exact h0⟩
    simp only [erStore_ser, erStore_buf, State.setRxq_ser, State.setRxq_buf, hnc, frameEnd_eq, Bool.false_eq_true, if_false]
    split
    · rename_i hx
      refine SerInv_raiseSer _ _ ?_
      simp only [SerEnded, raiseSer_ser, State.setSer_ser, State.setSer_buf, erStore_buf, State.setRxq_ser, State.setRxq_buf]
      exact ⟨hT _, hc', hsum, by trivial, by simp [CheckDecided, hx]⟩
    · rename_i hx
      split
      · rename_i hy
        refine SerInv_raiseSer _ _ ?_
        simp only [SerEnded, raiseSer_ser, State.setSer_ser, State.setSer_buf, erStore_buf, State.setRxq_ser, State.setRxq_buf]
        refine ⟨hT _, hc', hsum, by trivial, ?_⟩
        simp at hx hy
        simp [CheckDecided, hx, hy]
      · rename_i hy
        refine SerInv_raiseSer _ _ ?_
        simp only [SerEnded, raiseSer_ser, State.setSer_ser, State.setSer_buf, erStore_buf, State.setRxq_ser, State.setRxq_buf]
        refine ⟨hT _, hc', hsum, by trivial, ?_⟩
        simp at hx hy
        simp [CheckDecided, hx, hy]
  · have hlt := succ_lt_of_ne hl' hc'
    have hcc : s.ser.cnt.toNat + 1 < s.ser.need.toNat := by rw [← e1]; simpa [BitVec.lt_def] using hlt
    have hsc : sumCovers s.ser = true := by simp [sumCovers, hp]; omega
    refine SerInv_of_running (s := erStore _ _) hb h1 h2 h3 ?_
    simp only [SerRunning, erStore_ser, erStore_buf, State.setRxq_ser, State.setRxq_buf, hp, TailFacts, HeaderRecorded, hsc, if_true, hfs]
    refine ⟨⟨hd, h6, ⟨?_, hz⟩, hn, BitVec.le_of_lt hlt, ht1, ?_⟩, hlt, ?_, he⟩
    · rw [hby 1 (by omega)]; exact hk
    · rw [hby 0 (by omega)]; exact h0
    · rw [htn1, bufSum_memWrite, hs]

/-! ## BUS -/

theorem BusInv_raiseBus {s : State} (r : Result) (d : BitVec 2) (h : BusEnded (raiseBus r d s).bus) :
    BusInv (raiseBus r d s).bus :=
  (BusInv_ended rfl rfl).2 h

/-- The budget of a running conversion is not 0 (10_state.md R35). -/
theorem ConvertFacts.maxr_ne_zero {e : BusEngine} (h : ConvertFacts e) : e.maxr ≠ 0 := by
  rcases h with ⟨h, _⟩ | ⟨h, _⟩ <;>
  · rcases decodeBus_cases e.cmd with ⟨_, _, ha, _, k⟩ | ⟨_, _, ha, _, k⟩ | ⟨_, k⟩ <;> rw [k] at h <;> simp at h
    rw [← h]
    exact ha

/-- A select step keeps the BUS engine consistent (42_conversion_poller.md R161). -/
theorem selectStep_inv {s : State} (a) (h : BusInv s.bus)
    (hb : s.bus.st.busy = true) (hp : s.bus.phase = .select) :
    BusInv (selectStep a s).bus := by
  obtain ⟨h1, h2, h3, hr⟩ := (BusInv_running hb).1 h
  simp only [BusRunning, hp] at hr
  match a with
  | none => exact h
  | some .err =>
    refine BusInv_raiseBus _ _ ?_
    simp only [BusEnded, raiseBus_bus, busPerform_bus, hp]
    exact ⟨hr.1, hr.2, rfl, rfl⟩
  | some (.ok _ _ _) =>
    refine (BusInv_running (by simpa [selectStep] using hb)).2 ⟨h1, h2, h3, ?_⟩
    have hm := hr.1.maxr_ne_zero
    refine ⟨hr.1, ?_, .inl hr.2⟩
    simp only [hr.2.1, selectStep, State.setBus_bus]
    have : s.bus.maxr.toNat ≠ 0 := fun h => hm (BitVec.eq_of_toNat_eq (by simpa using h))
    simp [BitVec.lt_def]; omega

/-- A poll step keeps the BUS engine consistent (42_conversion_poller.md R162 to R164). -/
theorem pollStep_inv {s : State} (a) (h : BusInv s.bus)
    (hb : s.bus.st.busy = true) (hp : s.bus.phase = .poll) :
    BusInv (pollStep a s).bus := by
  obtain ⟨h1, h2, h3, hr⟩ := (BusInv_running hb).1 h
  simp only [BusRunning, hp] at hr
  obtain ⟨hc, hl, hsp⟩ := hr
  have e1 := toNat_succ_of_lt hl
  have hl' : s.bus.reads.toNat < s.bus.maxr.toNat := by simpa [BitVec.lt_def] using hl
  rcases pollStep_cases a s with
      ⟨_, e⟩
      | ⟨_, e⟩
      | ⟨b0, b1, b2, _, hrd, e⟩
      | ⟨b0, b1, b2, _, hrd, hq, e⟩
      | ⟨b0, b1, b2, _, hrd, hq, e⟩ <;>
    rw [e]
  · exact h
  · refine BusInv_raiseBus _ _ ?_
    simp only [BusEnded, raiseBus_bus, busPerform_bus, hp]
    exact ⟨hc, rfl, .inr (.inr ⟨rfl, hl, hsp⟩)⟩
  · refine BusInv_raiseBus _ _ ?_
    simp only [BusEnded, raiseBus_bus, State.setBus_bus, pollRecord, hp]
    refine ⟨hc, rfl, .inl ⟨rfl, hrd, ?_, ?_⟩⟩
    · simp only [BitVec.le_def, e1]; simp
    · simp only [BitVec.le_def, e1]; omega
  · refine BusInv_raiseBus _ _ ?_
    simp only [BusEnded, raiseBus_bus, State.setBus_bus, pollRecord, hp]
    exact ⟨hc, rfl, .inr (.inl ⟨rfl, hrd, hq⟩)⟩
  · refine (BusInv_running (by simpa [pollRecord] using hb)).2 ⟨h1, h2, h3, ?_⟩
    simp only [BusRunning, State.setBus_bus, pollRecord, hp]
    exact ⟨hc, succ_lt_of_ne hl hq, .inr hrd⟩

end Sys2Proof.Machine
end

