-- ==== Sys2Proof/Laws/PerInstr.lean ====
section
/-! SUPPORT. Statements for all instructions, one lemma per constructor. -/

namespace Sys2Proof.Laws.TableMatch

/-- The word of a command matches its row of the opcode table and carries its operand in bits 31:16 (30_encoding.md R84,
R85). -/
def Statement (i : Instr) : Prop :=
  match i with
  | .serReadn n => (encode i).extractLsb' 0 16 = (0x0001 : Half) ∧ (encode i).extractLsb' 16 16 = n
  | .serFrame => encode i = 0x00000002
  | .busConvertWind m => (encode i).extractLsb' 0 16 = (0x8801 : Half) ∧ (encode i).extractLsb' 16 16 = m
  | .busConvertCur m => (encode i).extractLsb' 0 16 = (0xA801 : Half) ∧ (encode i).extractLsb' 16 16 = m

/-- A word made of two halves, by its halves. -/
theorem halves {w : Word} {hi lo : Half} (h : w.toNat = hi.toNat * 65536 + lo.toNat) :
    w.extractLsb' 0 16 = lo ∧ w.extractLsb' 16 16 = hi := by
  have := lo.isLt
  have := hi.isLt
  constructor <;> apply BitVec.eq_of_toNat_eq <;> rw [field_toNat, h] <;> omega

theorem serReadn (n : Half) : Statement (.serReadn n) :=
  halves (encode_serReadn_toNat n)

theorem serFrame : Statement .serFrame := by
  simp [Statement, encode]

theorem busConvertWind (m : Half) : Statement (.busConvertWind m) :=
  halves (encode_busConvertWind_toNat m)

theorem busConvertCur (m : Half) : Statement (.busConvertCur m) :=
  halves (encode_busConvertCur_toNat m)

end Sys2Proof.Laws.TableMatch
end

