-- ==== Sys2Proof/Tests/Slice0.lean ====
section
/-! SUPPORT. Tests: the well-formedness checks, words written out from the encodings, single steps with results from
95_test_vectors.md, and for every obligation with hypotheses a witness that meets them. -/

namespace Sys2Proof.Tests

open Sys2Proof Sys2Proof.Machine

/-! ## Well-formedness -/

theorem test_wellFormed : (Instr.serReadn 0).WellFormed ∧ Instr.serFrame.WellFormed ∧
    (Instr.busConvertWind 1).WellFormed ∧ (Instr.busConvertCur 65535).WellFormed := by decide

theorem test_illFormed : ¬ (Instr.busConvertWind 0).WellFormed ∧ ¬ (Instr.busConvertCur 0).WellFormed := by decide

/-! ## Decoding: words bit by bit from 30_encoding.md R81 and R82 -/

-- ARG = 0000000000000011, RSVD = 000000000000, OP = 0001 (ER-1).
theorem test_decode_readn : decode .ser 0b0000000000000011_000000000000_0001 = .ok (.serReadn 3) := by rfl

-- ARG = all ones (ER-11).
theorem test_decode_readn_max : decode .ser 0b1111111111111111_000000000000_0001 = .ok (.serReadn 65535) := by rfl

-- ARG = 0, RSVD = 0, OP = 0010 (FS-1).
theorem test_decode_frame : decode .ser 0b0000000000000000_000000000000_0010 = .ok .serFrame := by rfl

-- MAXR = 0000000000001010, SEL = 10001000, RSVD = 0000, OP = 0001 (CP-2).
theorem test_decode_wind : decode .bus 0b0000000000001010_10001000_0000_0001 = .ok (.busConvertWind 10) := by rfl

-- MAXR = 0000000000001010, SEL = 10101000, RSVD = 0000, OP = 0001 (CP-1).
theorem test_decode_cur : decode .bus 0b0000000000001010_10101000_0000_0001 = .ok (.busConvertCur 10) := by rfl

-- ER-9, ER-10, FS-17, HA-9, HA-10: illegal words for SER, and the first check that fails.
theorem test_decode_ser_illegal : decode .ser 0x00030011 = .error .reserved ∧ decode .ser 0x00000003 = .error .opcode ∧
    decode .ser 0x00010002 = .error .reserved ∧ decode .ser 0x00000000 = .error .opcode ∧
    decode .ser 0xFFFFFFFF = .error .opcode := ⟨rfl, rfl, rfl, rfl, rfl⟩

-- CP-11 to CP-16: illegal words for BUS, and the first check that fails.
theorem test_decode_bus_illegal : decode .bus 0x000A9001 = .error .argument ∧ decode .bus 0x0000A801 = .error .argument ∧
    decode .bus 0x000AA811 = .error .reserved ∧ decode .bus 0x000AA803 = .error .opcode ∧
    decode .bus 0x000A9013 = .error .opcode ∧ decode .bus 0x00009011 = .error .reserved :=
  ⟨rfl, rfl, rfl, rfl, rfl, rfl⟩

-- The register written decides the engine (30_encoding.md R80): a BUS word in SER_CMD and a SER word in BUS_CMD.
theorem test_decode_wrong_engine : decode .ser 0x000A8801 = .error .reserved ∧ decode .bus 0x00030001 = .error .argument ∧
    decode .bus 0x00000002 = .error .opcode := ⟨rfl, rfl, rfl⟩

-- 95_test_vectors.md, the words of ER-1, FS-1, CP-2, CP-1 and the largest operands.
theorem test_encode : encode (.serReadn 3) = 0x00030001 ∧ encode .serFrame = 0x00000002 ∧
    encode (.busConvertWind 10) = 0x000A8801 ∧ encode (.busConvertCur 10) = 0x000AA801 ∧
    encode (.serReadn 65535) = 0xFFFF0001 ∧ encode (.busConvertWind 65535) = 0xFFFF8801 := by decide

-- 30_encoding.md R95: operands outside their range are refused.
theorem test_asm : asmReadn 65536 = none ∧ asmReadn 65535 = some 0xFFFF0001 ∧ asmConvertWind 0 = none ∧
    asmConvertCur 65536 = none ∧ asmConvert 0x90 1 = none ∧ asmConvert 0xA8 5 = some 0x0005A801 := by decide

-- The host's numbering of the table's rows: a row is one word, and a BUS word with MAXR = 0 is illegal (R86).
theorem test_table_words : decodeTableWord 32 0x00000001 = some (.serReadn 0) ∧
    decodeTableWord 32 0x00000002 = some .serFrame ∧ decodeTableWord 32 0x00018801 = some (.busConvertWind 1) ∧
    decodeTableWord 32 0x0001A801 = some (.busConvertCur 1) ∧ decodeTableWord 32 0x0000A801 = none ∧
    decodeTableWord 64 0x100000002 = none := by decide

/-! ## Small states -/

def running : Status := { busy := true, done := false, rej := false, result := .ok, detail := 0 }

/-- SER runs command `i`, short of its deadline 100, with `q` in the channel; its engine step is next. -/
def serState (i : Instr) (p : SerPhase) (need cnt total : Half) (q : List Byte) : State :=
  { State.reset with
    turn := .engine none, pending := [.ser], rxq := q
    ser := { SerEngine.reset with
      cmd := encode i, st := running, phase := p, dl := 100, need := need, cnt := cnt, total := total } }

/-- BUS runs command `i`; its engine step is next, with BUSDEV's answer `a`. -/
def busState (i : Instr) (p : BusPhase) (maxr reads : Half) (a : Option BusAnswer) : State :=
  { State.reset with
    turn := .engine a, pending := [.bus a]
    bus := { BusEngine.reset with
      cmd := encode i, st := running, phase := p, sel := selField (encode i), maxr := maxr, reads := reads } }

/-- `s` with the move `m` next. -/
def next (m : Move) (s : State) : State := { s with pending := [m] }

/-- `s` with `l` in the frame buffer from index 0 on. -/
def withBuf (l : List Byte) (s : State) : State :=
  { s with buf := { bytes := l.zipIdx.map (fun c => (c.2, c.1)), epoch := 0 } }

/-- The state after one step, where there is one. -/
def after (s : State) : State :=
  match step s with
  | .next t => t
  | .fault _ => State.reset
  | .refused _ => State.reset

/-- The frame of FS-1. -/
def frameFS1 : List Byte := [0x7B, 0x50, 0x06, 0x00, 0x2F, 0x7D]

/-! ## Single steps -/

-- ER-1: the third byte ends `ser.readn 3` with OK and leaves the fourth in the channel.
theorem test_readn_last_byte :
    let s := serState (.serReadn 3) .readn 3 2 2 [0x33, 0x44];
    let t := after { s with ser := { s.ser with sum := 0x33 } };
    regValue t .serStatus = 0x00000502 ∧ regValue t .serCount = 0x00030003 ∧ regValue t .serTotal = 3 ∧
      regValue t .serCheck = 0x00000066 ∧ t.buf.bytes = [(2, 0x33)] ∧ t.rxq = [0x44] := by decide

-- ER-3: with N = 0 the first step ends with OK although the deadline is reached and the channel reports an error.
theorem test_readn_zero :
    let s := serState (.serReadn 0) .readn 0 0 0 [0x11];
    let t := after { s with now := 200, rxErr := true };
    regValue t .serStatus = 0x00000502 ∧ regValue t .serCount = 0 ∧ t.rxq = [0x11] := by decide

-- FS-4: a header that declares size 5 ends with INVALID_FRAME, DETAIL 0.
theorem test_frame_short_size :
    let s := withBuf [0x7B, 0x50, 0x05] (serState .serFrame .header 3 2 3 [0x00, 0x2F, 0x7D]);
    let t := after { s with ser := { s.ser with sum := 0xD0 } };
    regValue t .serStatus = 0x00000222 ∧ regValue t .serFrameInfo = 0x00050050 ∧ regValue t .serCount = 0x00030003 ∧
      regValue t .serTotal = 4 ∧ regValue t .serCheck = 0x000000D0 ∧ t.rxq = [0x2F, 0x7D] := by decide

-- FS-8: of a bad terminator and a bad sum the terminator decides; the terminator is not summed.
theorem test_frame_terminator_wins :
    let s := withBuf [0x7B, 0x50, 0x06, 0x00, 0x30] (serState .serFrame .tail 2 1 5 [0x7E]);
    let t := after { s with ser := { s.ser with sum := 0x01, kind := 0x50, size := 6 } };
    regValue t .serStatus = 0x00001422 ∧ regValue t .serCheck = 0x00007E01 ∧ regValue t .serTotal = 6 ∧
      regValue t .serCount = 0x00020002 := by decide

-- CP-3: the second read of a budget of 2, not ready.
theorem test_wind_budget :
    let t := after (busState (.busConvertWind 2) .poll 2 1 (some (.ok 0x12 0x35 0x80)));
    regValue t .busStatus = 0x00000242 ∧ regValue t .busResult = 0x00801235 ∧ regValue t .busReads = 0x00020002 := by
  decide

-- CP-2: the selector write, then POLL.
theorem test_wind_select :
    let t := after (busState (.busConvertWind 10) .select 10 0 (some (.ok 0 0 0)));
    regValue t .busStatus = 0x00000201 ∧ t.busTrace = [.write 0x88] := by decide

-- CP-4: the read with bit 7 clear is the MAXR-th: OK, bits 6 to 0 ignored.
theorem test_cur_ready_at_budget :
    let t := after (busState (.busConvertCur 1) .poll 1 0 (some (.ok 0xFF 0xFF 0x7F)));
    regValue t .busStatus = 0x00000202 ∧ regValue t .busResult = 0x007FFFFF ∧ regValue t .busReads = 0x00010001 := by
  decide

-- CP-6: the selector write fails.
theorem test_cur_select_error :
    let t := after (busState (.busConvertCur 10) .select 10 0 (some .err));
    regValue t .busStatus = 0x00000152 ∧ regValue t .busReads = 0x000A0000 ∧ t.busTrace = [.write 0xA8] := by decide

-- HA-2, HA-3: acceptance, and a word written while SER is busy.
theorem test_host_issue : regValue (after (next (wr 0x000 0x00000002) State.reset)) .serStatus = 0x00000101 ∧
    regValue (after (next (wr 0x000 0x00030001) (serState .serFrame .scan 0 0 0 []))) .serStatus = 0x00000105 ∧
    regValue (after (next (wr 0x000 0x00030001) (serState .serFrame .scan 0 0 0 []))) .serCmd = 0x00000002 := by decide

-- CP-12, HA-11: illegal words end at once and latch CMD but no budget.
theorem test_host_illegal : regValue (after (next (wr 0x100 0x0000A801) State.reset)) .busStatus = 0x00002062 ∧
    regValue (after (next (wr 0x100 0xFFFFFFFF) State.reset)) .busStatus = 0x00000062 ∧
    regValue (after (next (wr 0x100 0xFFFFFFFF) State.reset)) .busCmd = 0xFFFFFFFF ∧
    regValue (after (next (wr 0x100 0xFFFFFFFF) State.reset)) .busReads = 0 := by decide

-- HA-8: the window is little-endian. HA-7: a write to it, to a read-only register and to an unmapped offset.
theorem test_host_window : (after (next (rd 0x10000) (withBuf frameFS1 State.reset))).hostV = 0x0006507B ∧
    (after (next (wr 0x10000 1) (withBuf frameFS1 State.reset))).buf = (withBuf frameFS1 State.reset).buf ∧
    after (next (wr 0x004 0xFFFFFFFF) State.reset) = State.reset ∧
    after (next (wr 0x024 5) State.reset) = State.reset := by decide

-- HA-12: CLOCK carries from TIME_LO into TIME_HI.
theorem test_clock_carry :
    let t := after (next .clock { State.reset with now := 0x00000000FFFFFFFF });
    regValue t .timeLo = 0 ∧ regValue t .timeHi = 1 := by decide

-- HA-12: TIME carries between the reads of the first iteration, so rdtime reads again; T = (H2 << 32) | LO.
theorem test_rdtime :
    let s := { State.reset with now := 0x00000000FFFFFFFF };
    (rdtime [([], [], [.clock])] s).map Prod.fst = none ∧
    (rdtime [([], [], [.clock]), ([], [], [])] s).map Prod.fst = some 0x0000000100000000 ∧
    rdtimeValue 0x00000001 0x00000005 0x00000001 = some 0x0000000100000005 := by decide

-- ER-2: the host's wait goes on while BUSY = 1 and ends with the STATUS word of the ended command.
theorem test_wait :
    let s := serState (.serReadn 0) .readn 0 0 0 [0x11];
    (waitFor .ser [[]] (next .clock s)).map Prod.fst = none ∧
    (waitFor .ser [[], [.ser]] (next .clock s)).map Prod.fst = some 0x00000502 := by decide

-- RS-1: reset in TAIL makes every register 0 and leaves the channel.
theorem test_reset :
    let t := after (next .reset (serState .serFrame .tail 4 1 5 [0x7D, 0x81, 0x7D]));
    (∀ r ∈ hostRegs, regValue t r = 0) ∧ t.rxq = [0x7D, 0x81, 0x7D] := by decide

-- 42_conversion_poller.md R166 and CP-4: the largest reading.
theorem test_volts : volts 0xFFFF = 40959375 / 10000000 := by simp only [volts, show (0xFFFF : Half).toNat = 65535 from rfl]; norm_num

/-! ## Witnesses: states and operands that meet each obligation's hypotheses -/

theorem witness_DecodeEncodeRoundTrip : (Instr.busConvertCur 1).WellFormed ∧ (Instr.serReadn 65535).WellFormed := by
  decide

theorem witness_DecodedWordIsItsEncoding : decode .bus 0xFFFFA801 = .ok (.busConvertCur 65535) := rfl

theorem witness_OpcodeMap : decode .ser 0x00000001 = .ok (.serReadn 0) ∧ decode .ser 0x00000002 = .ok .serFrame ∧
    decode .bus 0x00018801 = .ok (.busConvertWind 1) ∧ decode .bus 0xFFFFA801 = .ok (.busConvertCur 65535) :=
  ⟨rfl, rfl, rfl, rfl⟩

theorem witness_LegalWordsHaveOneEngine : decode .ser 0x88010001 = .ok (.serReadn 0x8801) ∧
    decode .bus 0x00018801 = .ok (.busConvertWind 1) := ⟨rfl, rfl⟩

theorem witness_StepRunsDecodedCommand :
    (nextMove (next (wr 0x100 0x00018801) State.reset) = .hostWrite 32 (cmdReg .bus).offset 0x00018801 ∧
      decode .bus 0x00018801 = .ok (.busConvertWind 1)) ∧
    (let s := serState (.serReadn 1) .readn 1 0 0 [0xAA];
      nextMove s = .ser ∧ s.ser.st.busy = true ∧ decode .ser s.ser.cmd = .ok (.serReadn 1)) ∧
    (let s := busState (.busConvertWind 1) .poll 1 0 none;
      nextMove s = .bus none ∧ s.bus.st.busy = true ∧ decode .bus s.bus.cmd = .ok (.busConvertWind 1)) ∧
    (next .clock State.reset).pending = .clock :: [] ∧ State.reset.pending = [] :=
  ⟨⟨rfl, rfl⟩, ⟨rfl, rfl, rfl⟩, ⟨rfl, rfl, rfl⟩, rfl, rfl⟩

theorem witness_FetchWordIsIssuedNext : (Instr.busConvertWind 1).WellFormed ∧ (Instr.serReadn 0).WellFormed := by decide

theorem witness_ResetStateReadsZero : (0xFFFC : Offset).toNat < 0x10000 ∧ (0x000 : Offset).toNat < 0x10000 := by decide

theorem witness_ResetClearsBlock : nextMove (next .reset (serState .serFrame .tail 4 1 5 [0x7D])) = .reset := rfl

/-- `ser.readn 2` has stored one byte and another waits. -/
def readnHalf : State :=
  let s := withBuf [0xAA] (serState (.serReadn 2) .readn 2 1 1 [0xBB])
  { s with ser := { s.ser with sum := 0xAA } }

theorem readnHalf_inv : Inv readnHalf where
  buf := by decide
  ser := (SerInv_running rfl).2 ⟨rfl, rfl, rfl, ⟨rfl, by decide, rfl, by decide, rfl, rfl, rfl, rfl⟩, .inl (by decide)⟩
  bus := BusInv_reset

theorem witness_StepKeepsInv : Inv readnHalf ∧ step readnHalf = .next (after readnHalf) := ⟨readnHalf_inv, rfl⟩

theorem witness_StepKeepsBufferForm :
    Memory.wf readnHalf.buf.bytes ∧ step readnHalf = .next (after readnHalf) := ⟨by decide, rfl⟩

theorem witness_NoStepFaults : Inv readnHalf := readnHalf_inv

theorem witness_OnlyMisshapenAccessesRefused :
    step (next (.hostRead 16 0x000) State.reset) = .refused (.accessWidth 16) ∧
    step (next (.hostWrite 32 0x001 5) State.reset) = .refused (.misaligned 0x001) := ⟨rfl, rfl⟩

theorem witness_PhasesRunInOrder :
    (let s := serState .serFrame .scan 0 0 0 [0x7B];
      step s = .next (after s) ∧ nextMove s ≠ .reset ∧ s.ser.st.busy = true) ∧
    (let s := busState (.busConvertCur 1) .select 1 0 (some (.ok 0 0 0));
      step s = .next (after s) ∧ nextMove s ≠ .reset ∧ s.bus.st.busy = true) :=
  ⟨⟨rfl, by decide, rfl⟩, ⟨rfl, by decide, rfl⟩⟩

theorem witness_HostReadReturnsLiveValue :
    (∀ off, nextMove (next (rd off) State.reset) = .hostRead 32 off) ∧
    (∀ off ∈ ([0x000, 0x204, 0x10000, 0x1FFFC, 0x024, 0xFFFC] : List Offset), off.toNat % 4 = 0) ∧
    (0x204 : Offset) = HostReg.timeHi.offset ∧ 0x10000 ≤ (0x10000 : Offset).toNat ∧ 0x10000 ≤ (0x1FFFC : Offset).toNat ∧
    (0xFFFC : Offset).toNat < 0x10000 ∧ ∀ r, (0xFFFC : Offset) ≠ HostReg.offset r :=
  ⟨fun _ => rfl, by simp, by decide, by decide, by decide, by decide, by intro r; cases r <;> decide⟩

theorem witness_OtherWritesIgnored :
    (∀ off v, nextMove (next (wr off v) State.reset) = .hostWrite 32 off v) ∧
    (∀ off ∈ ([0x004, 0x204, 0x10000, 0x1FFFC, 0x024, 0xFFFC] : List Offset), off.toNat % 4 = 0 ∧
      off ≠ 0x000 ∧ off ≠ 0x008 ∧ off ≠ 0x00C ∧ off ≠ 0x100) ∧
    (0x024 : Offset).toNat < 0x10000 ∧ ∀ r, (0x024 : Offset) ≠ HostReg.offset r :=
  ⟨fun _ _ => rfl, by simp, by decide, by intro r; cases r <;> decide⟩

theorem witness_DeadlineIsWrittenThenLatched :
    nextMove (next (wr 0x008 0x64) State.reset) = .hostWrite 32 0x008 0x64 ∧
    nextMove (next (wr 0x00C 1) State.reset) = .hostWrite 32 0x00C 1 ∧
    nextMove (next (wr 0x000 0) State.reset) = .hostWrite 32 0x000 0 ∧ State.reset.ser.st.busy = false :=
  ⟨rfl, rfl, rfl, rfl⟩

/-- `s` with REJ set in both engines. -/
def rejected (s : State) : State :=
  { s with
    ser := { s.ser with st := { s.ser.st with rej := true } }
    bus := { s.bus with st := { s.bus.st with rej := true } } }

theorem witness_CommandWhileBusyIsIgnored :
    (let s := next (wr 0x000 0) (serState .serFrame .scan 0 0 0 []);
      nextMove s = .hostWrite 32 0x000 0 ∧ s.ser.st.busy = true) ∧
    (let s := next (wr 0x100 0) (busState (.busConvertCur 1) .poll 1 0 none);
      nextMove s = .hostWrite 32 0x100 0 ∧ s.bus.st.busy = true) ∧
    (let s := next (wr 0x000 2) (rejected State.reset);
      step s = .next (after s) ∧ s.ser.st.rej = true ∧ (after s).ser.st.rej = false) ∧
    (let s := next (wr 0x100 0) (rejected State.reset);
      step s = .next (after s) ∧ s.bus.st.rej = true ∧ (after s).bus.st.rej = false) :=
  ⟨⟨rfl, rfl⟩, ⟨rfl, rfl⟩, ⟨rfl, rfl, rfl⟩, ⟨rfl, rfl, rfl⟩⟩

theorem witness_IllegalWordEndsAtOnce :
    (∀ w, nextMove (next (wr 0x000 w) State.reset) = .hostWrite 32 0x000 w) ∧
    (∀ w, nextMove (next (wr 0x100 w) State.reset) = .hostWrite 32 0x100 w) ∧
    (∀ w ∈ ([0x00000000, 0x00000003, 0x00000011, 0x00010002] : List Word),
      ¬ (w.extractLsb' 0 16 = (0x0001 : Half) ∨ w = 0x00000002)) ∧
    (∀ w ∈ ([0x00018800, 0x00018811, 0x00018901, 0x00008801, 0x0000A801] : List Word),
      ¬ ((w.extractLsb' 0 16 = (0x8801 : Half) ∨ w.extractLsb' 0 16 = (0xA801 : Half)) ∧
        w.extractLsb' 16 16 ≠ (0 : Half))) ∧
    State.reset.ser.st.busy = false ∧ State.reset.bus.st.busy = false :=
  ⟨fun _ => rfl, fun _ => rfl, by simp, by simp, rfl, rfl⟩

theorem witness_ReadnIsAccepted : State.reset.turn = .issue ∧ State.reset.ser.st.busy = false := by decide

theorem witness_FrameIsAccepted : State.reset.turn = .issue ∧ State.reset.ser.st.busy = false := by decide

theorem witness_ConvertIsAccepted :
    State.reset.turn = .issue ∧ State.reset.bus.st.busy = false ∧ (1 : Half) ≠ 0 ∧ (65535 : Half) ≠ 0 := by decide

theorem witness_AcceptedCommandHasBegun :
    (∀ w, nextMove (next (wr 0x000 w) State.reset) = .hostWrite 32 0x000 w) ∧
    (∀ w, nextMove (next (wr 0x100 w) State.reset) = .hostWrite 32 0x100 w) ∧
    State.reset.ser.st.busy = false ∧ State.reset.bus.st.busy = false ∧
    decode .ser 0xFFFF0001 = .ok (.serReadn 65535) ∧ decode .ser 0x00000002 = .ok .serFrame ∧
    decode .bus 0x00018801 = .ok (.busConvertWind 1) ∧ decode .bus 0x0001A801 = .ok (.busConvertCur 1) :=
  ⟨fun _ => rfl, fun _ => rfl, rfl, rfl, rfl, rfl, rfl, rfl⟩

theorem witness_RaiseEndsTheCommand :
    (nextMove (next .ser State.reset) = .ser ∧ (next .ser State.reset).ser.st.busy = false) ∧
    (nextMove (next (.bus none) State.reset) = .bus none ∧ (next (.bus none) State.reset).bus.st.busy = false) := by
  decide

theorem witness_ResultsStayUntilNextCommand :
    let s := next .clock State.reset;
    step s = .next (after s) ∧ nextMove s ≠ .reset ∧ s.ser.st.busy = false ∧ s.bus.st.busy = false ∧
      (∀ w, nextMove s ≠ .hostWrite 32 0x000 w) ∧ ∀ w, nextMove s ≠ .hostWrite 32 0x100 w :=
  ⟨rfl, by decide, rfl, rfl, fun _ => nofun, fun _ => nofun⟩

theorem witness_ExactReaderStepOrder :
    (let s := serState (.serReadn 0) .readn 0 0 0 [0x11];
      s.turn = .engine none ∧ s.ser.phase = .readn ∧ s.ser.cnt = s.ser.need) ∧
    (let s := serState .serFrame .header 3 0 1 [0x11];
      s.turn = .engine none ∧ s.ser.phase = .header ∧ s.ser.cnt ≠ s.ser.need ∧
      ({ s with now := 100 } : State).ser.dl.toNat ≤ ({ s with now := 100 } : State).now.toNat) ∧
    (let s := { serState .serFrame .tail 2 0 4 [0x11] with now := 99, rxErr := true };
      s.turn = .engine none ∧ s.ser.phase = .tail ∧ s.ser.cnt ≠ s.ser.need ∧ s.now.toNat < s.ser.dl.toNat ∧
      s.rxErr = true) ∧
    (let s := serState .serFrame .tail 2 0 4 [];
      s.turn = .engine none ∧ s.ser.phase = .tail ∧ s.ser.cnt ≠ s.ser.need ∧ s.now.toNat < s.ser.dl.toNat ∧
      s.rxErr = false ∧ s.rxq = []) ∧
    (let s := serState (.serReadn 1) .readn 1 0 0 [0x11];
      s.turn = .engine none ∧ s.ser.phase = .readn ∧ s.ser.cnt ≠ s.ser.need ∧ s.now.toNat < s.ser.dl.toNat ∧
      s.rxErr = false ∧ s.rxq = 0x11 :: [] ∧ s.ser.cnt + 1 = s.ser.need) ∧
    (let s := serState .serFrame .header 3 1 2 [0x11];
      s.turn = .engine none ∧ s.ser.phase = .header ∧ s.ser.cnt ≠ s.ser.need ∧ s.now.toNat < s.ser.dl.toNat ∧
      s.rxErr = false ∧ s.rxq = 0x11 :: [] ∧ s.ser.cnt + 1 ≠ s.ser.need) := by decide

theorem witness_ByteIsStoredAndCounted :
    (serState (.serReadn 1) .readn 1 0 0 []).ser.phase = .readn ∧
    (serState .serFrame .header 3 0 1 []).ser.phase = .header ∧
    (let e := { (serState .serFrame .tail 2 0 4 []).ser with size := 6 };
      e.phase = .tail ∧ e.total.toNat + 2 ≤ e.size.toNat) ∧
    (let e := { (serState .serFrame .tail 2 1 5 []).ser with size := 6 };
      e.phase = .tail ∧ e.size.toNat < e.total.toNat + 2) := by decide

theorem witness_ReadnCompletes :
    (let s := serState (.serReadn 1) .readn 1 0 0 [0xAA];
      s.turn = .engine none ∧ s.ser.st.busy = true ∧ s.ser.phase = .readn ∧ s.ser.cnt + 1 = s.ser.need ∧
      s.now < s.ser.dl ∧ s.rxErr = false ∧ s.rxq = 0xAA :: []) ∧
    (let s := serState (.serReadn 0) .readn 0 0 0 [0xAA];
      s.turn = .engine none ∧ s.ser.st.busy = true ∧ s.ser.phase = .readn ∧ s.ser.need = 0 ∧ s.ser.cnt = 0) := by decide

/-- `s` at its deadline. -/
def late (s : State) : State := { s with now := s.ser.dl }

theorem witness_DeadlineEndsTheWait :
    (let s := late (serState (.serReadn 1) .readn 1 0 0 [0xAA]);
      nextMove s = .ser ∧ s.ser.st.busy = true ∧ decode .ser s.ser.cmd = .ok (.serReadn 1) ∧
      s.ser.dl.toNat ≤ s.now.toNat ∧ s.ser.phase = .readn ∧ s.ser.cnt ≠ s.ser.need) ∧
    (let s := late (serState .serFrame .scan 0 0 0 [0x7B]);
      nextMove s = .ser ∧ s.ser.st.busy = true ∧ decode .ser s.ser.cmd = .ok .serFrame ∧
      s.ser.dl.toNat ≤ s.now.toNat ∧ s.ser.phase = .scan) ∧
    (let s := late (serState .serFrame .tail 2 1 5 [0x7D]);
      nextMove s = .ser ∧ s.ser.st.busy = true ∧ decode .ser s.ser.cmd = .ok .serFrame ∧
      s.ser.dl.toNat ≤ s.now.toNat ∧ s.ser.phase = .tail ∧ s.ser.cnt ≠ s.ser.need) :=
  ⟨⟨rfl, rfl, rfl, by decide, rfl, by decide⟩, ⟨rfl, rfl, rfl, by decide, rfl⟩,
    ⟨rfl, rfl, rfl, by decide, rfl, by decide⟩⟩

theorem witness_ChannelOrBusErrorEndsTheCommand :
    (let s := { serState .serFrame .header 3 0 1 [0x11] with rxErr := true };
      nextMove s = .ser ∧ s.ser.st.busy = true ∧ decode .ser s.ser.cmd = .ok .serFrame ∧ s.now < s.ser.dl ∧
      s.rxErr = true ∧ s.ser.phase = .header ∧ s.ser.cnt ≠ s.ser.need) ∧
    (let s := busState (.busConvertCur 1) .poll 1 0 (some .err);
      nextMove s = .bus (some .err) ∧ decode .bus s.bus.cmd = .ok (.busConvertCur 1) ∧ inFlight s = some .read3) ∧
    (let s := busState (.busConvertWind 1) .select 1 0 (some .err);
      nextMove s = .bus (some .err) ∧ decode .bus s.bus.cmd = .ok (.busConvertWind 1) ∧
      inFlight s = some (.write 0x88)) :=
  ⟨⟨rfl, rfl, rfl, by decide, rfl, rfl, by decide⟩, ⟨rfl, rfl, rfl⟩, ⟨rfl, rfl, rfl⟩⟩

theorem witness_ReadnReadsExactlyN_zero :
    let s := serState (.serReadn 0) .readn 0 0 0 [0x11];
    ReadnBegun s ∧ InTime s ∧ ([] : List Byte).length = s.ser.need.toNat ∧ s.rxq = [] ++ [0x11] :=
  ⟨⟨rfl, rfl, rfl, rfl, rfl, rfl, rfl⟩, ⟨by decide, rfl⟩, by decide, rfl⟩

theorem witness_ReadnReadsExactlyN :
    let s := serState (.serReadn 3) .readn 3 0 0 [0x11, 0x22, 0x33, 0x44];
    ReadnBegun s ∧ InTime s ∧ ([0x11, 0x22, 0x33] : List Byte).length = s.ser.need.toNat ∧
      s.rxq = [0x11, 0x22, 0x33] ++ [0x44] :=
  ⟨⟨rfl, rfl, rfl, rfl, rfl, rfl, rfl⟩, ⟨by decide, rfl⟩, by decide, rfl⟩

theorem scanning_inv : Inv (serState .serFrame .scan 0 0 0 [0x7B]) where
  buf := Memory.wf_nil
  ser := (SerInv_running rfl).2 ⟨rfl, rfl, rfl, rfl, rfl, rfl, rfl, rfl, rfl, rfl, rfl⟩
  bus := BusInv_reset

theorem witness_SerCommandEndsByItsDeadline :
    (Inv readnHalf ∧ readnHalf.ser.st.busy = true ∧ readnHalf.now ≤ readnHalf.ser.dl) ∧
    (let s := late readnHalf;
      Inv s ∧ s.ser.st.busy = true ∧ s.now ≤ s.ser.dl) :=
  ⟨⟨readnHalf_inv, rfl, by decide⟩, ⟨readnHalf_inv.buf, readnHalf_inv.ser, readnHalf_inv.bus⟩, rfl, by decide⟩

theorem witness_ScanStepOrder_inv :
    let s := serState .serFrame .scan 0 0 0 [0x7B];
    Inv s ∧ s.ser.st.busy = true ∧ s.ser.phase = .scan := ⟨scanning_inv, rfl, rfl⟩

theorem witness_ScanStepOrder :
    (let s := late (serState .serFrame .scan 0 0 0 [0x7B]);
      s.turn = .engine none ∧ s.ser.phase = .scan ∧ s.ser.dl.toNat ≤ s.now.toNat) ∧
    (let s := { serState .serFrame .scan 0 0 0 [0x7B] with now := 99, rxErr := true };
      s.turn = .engine none ∧ s.ser.phase = .scan ∧ s.now.toNat < s.ser.dl.toNat ∧ s.rxErr = true) ∧
    (let s := serState .serFrame .scan 0 0 0 [];
      s.turn = .engine none ∧ s.ser.phase = .scan ∧ s.now.toNat < s.ser.dl.toNat ∧ s.rxErr = false ∧ s.rxq = []) ∧
    (let s := serState .serFrame .scan 0 0 0 [0x7B, 0x50];
      s.turn = .engine none ∧ s.ser.phase = .scan ∧ s.now.toNat < s.ser.dl.toNat ∧ s.rxErr = false ∧
      s.rxq = 0x7B :: [0x50]) ∧
    (0x7D : Byte) ≠ 0x7B := by decide

theorem witness_HeaderCompletes :
    (let s := withBuf [0x7B, 0x50, 0x05] (serState .serFrame .header 3 2 3 [0x00]);
      s.turn = .engine none ∧ s.ser.st.busy = true ∧ s.ser.phase = .header ∧ s.ser.need = 3 ∧ s.ser.cnt = 2 ∧
      s.ser.total = 3 ∧ s.now < s.ser.dl ∧ s.rxErr = false ∧ s.rxq = 0x00 :: [] ∧
      (((0x00 : Byte) ++ s.buf.byte 2 : Half)).toNat < 6) ∧
    (let s := withBuf [0x7B, 0x50, 0x06] (serState .serFrame .header 3 2 3 [0x00]);
      s.ser.total = 3 ∧ s.rxq = 0x00 :: [] ∧ 6 ≤ (((0x00 : Byte) ++ s.buf.byte 2 : Half)).toNat) :=
  ⟨⟨rfl, rfl, rfl, rfl, rfl, rfl, by decide, rfl, rfl, by decide⟩, ⟨rfl, rfl, by decide⟩⟩

theorem witness_FrameCompletes :
    let s := serState .serFrame .tail 2 1 5 [0x7D];
    let s := { s with ser := { s.ser with size := 6 } };
    s.turn = .engine none ∧ s.ser.st.busy = true ∧ s.ser.phase = .tail ∧ s.ser.cnt + 1 = s.ser.need ∧ 6 ≤ s.ser.size ∧
      s.ser.total = s.ser.size - 1 ∧ s.now < s.ser.dl ∧ s.rxErr = false ∧ s.rxq = 0x7D :: [] := by decide

theorem frameFS1_valid : ValidFrame frameFS1 := ⟨⟨rfl, by decide, by decide⟩, rfl, by decide⟩

/-- `ser.frame` has just been accepted, with `q` in the channel. -/
def scanning (q : List Byte) : State := serState .serFrame .scan 0 0 0 q

theorem scanning_begun (q : List Byte) : FrameBegun (scanning q) ∧ InTime (scanning q) :=
  ⟨⟨rfl, rfl, (rfl : decode .ser 0x00000002 = .ok .serFrame), rfl, rfl, rfl, rfl, rfl⟩, (by decide : (0 : Time) < 100), rfl⟩

theorem witness_FrameScannedFromStream :
    let s := scanning ([0x01, 0x7D] ++ (frameFS1 ++ [0x99]));
    FrameBegun s ∧ InTime s ∧ s.rxq = [0x01, 0x7D] ++ (frameFS1 ++ [0x99]) ∧
      (∀ b ∈ ([0x01, 0x7D] : List Byte), b ≠ 0x7B) ∧ FrameShaped frameFS1 :=
  ⟨(scanning_begun _).1, (scanning_begun _).2, rfl, by decide, frameFS1_valid.1⟩

theorem witness_FrameResynchronises :
    let s := scanning ([0x01, 0x7D] ++ (frameFS1 ++ [0x99]));
    FrameBegun s ∧ InTime s ∧ s.rxq = [0x01, 0x7D] ++ (frameFS1 ++ [0x99]) ∧
      (∀ b ∈ ([0x01, 0x7D] : List Byte), b ≠ 0x7B) ∧ ValidFrame frameFS1 :=
  ⟨(scanning_begun _).1, (scanning_begun _).2, rfl, by decide, frameFS1_valid⟩

theorem witness_CorruptedByteIsDetected :
    (let s := scanning (frameFS1.set 1 0x51 ++ []);
      FrameBegun s ∧ InTime s ∧ ValidFrame frameFS1 ∧ 1 < frameFS1.length ∧ frameFS1[1]? ≠ some 0x51 ∧
      s.rxq = frameFS1.set 1 0x51 ++ []) ∧
    (frameFS1[4]? ≠ some 0x30 ∧ 4 + 2 ≤ frameFS1.length) ∧ (frameFS1[5]? ≠ some 0x7E ∧ 5 + 1 = frameFS1.length) :=
  ⟨⟨(scanning_begun _).1, (scanning_begun _).2, frameFS1_valid, by decide, by decide, rfl⟩, by decide, by decide⟩

theorem witness_ShortSizeTakesFourBytes :
    let s := scanning ([0x01] ++ (0x7B :: 0x50 :: 0x05 :: 0x00 :: [0x2F]));
    FrameBegun s ∧ InTime s ∧ s.rxq = [0x01] ++ (0x7B :: 0x50 :: 0x05 :: 0x00 :: [0x2F]) ∧
      (∀ b ∈ ([0x01] : List Byte), b ≠ 0x7B) ∧ (0x05 : Byte).toNat + 256 * (0x00 : Byte).toNat < 6 :=
  ⟨(scanning_begun _).1, (scanning_begun _).2, rfl, by decide, by decide⟩

theorem witness_TruncatedFrameTimesOut :
    (∀ k ∈ [0, 3, 4, 5], (scanning ([0x01] ++ frameFS1.take k)).rxq = [0x01] ++ frameFS1.take k ∧
      k < frameFS1.length) ∧
    FrameBegun (scanning ([0x01] ++ frameFS1.take 5)) ∧ InTime (scanning ([0x01] ++ frameFS1.take 5)) ∧
    (∀ b ∈ ([0x01] : List Byte), b ≠ 0x7B) ∧ ValidFrame frameFS1 :=
  ⟨by decide, (scanning_begun _).1, (scanning_begun _).2, by decide, frameFS1_valid⟩

/-- FS-1 has ended with OK. -/
def frameDone : State :=
  let s := withBuf frameFS1 (serState .serFrame .check 2 2 6 [])
  { s with
    ser := { s.ser with
      st := { busy := false, done := true, rej := false, result := .ok, detail := 0 }
      endb := 0x7D, kind := 0x50, size := 6 } }

theorem frameDone_inv : Inv frameDone where
  buf := by decide
  ser := (SerInv_ended rfl rfl).2
    ⟨⟨rfl, by decide, ⟨by decide, by decide⟩, by decide, by decide, by decide, by decide⟩, by decide, by decide,
      by decide, ⟨rfl, rfl⟩⟩
  bus := BusInv_reset

theorem witness_OkFrameIsValidFrame : Inv frameDone ∧ frameDone.ser.st.busy = false ∧ frameDone.ser.st.done = true ∧
    frameDone.ser.st.result = .ok ∧ decode .ser frameDone.ser.cmd = .ok .serFrame :=
  ⟨frameDone_inv, rfl, rfl, rfl, rfl⟩

theorem witness_SelectStepWritesSelector :
    ∀ a ∈ ([some (.ok 0 0 0), some .err, none] : List (Option BusAnswer)),
      (busState (.busConvertWind 1) .select 1 0 a).bus.phase = .select ∧
      (busState (.busConvertWind 1) .select 1 0 a).turn = .engine a := by decide

theorem witness_PollStepReadsOnce :
    (∀ a ∈ ([some (.ok 0 0 0x7F), some (.ok 0 0 0x80), some .err, none] : List (Option BusAnswer)),
      (busState (.busConvertCur 2) .poll 2 1 a).bus.phase = .poll ∧
      (busState (.busConvertCur 2) .poll 2 1 a).turn = .engine a) ∧
    (0x7F : Byte).toNat < 128 ∧ 128 ≤ (0x80 : Byte).toNat ∧
    (busState (.busConvertCur 2) .poll 2 1 none).bus.reads + 1 = (busState (.busConvertCur 2) .poll 2 1 none).bus.maxr ∧
    (busState (.busConvertCur 2) .poll 2 0 none).bus.reads + 1 ≠ (busState (.busConvertCur 2) .poll 2 0 none).bus.maxr := by
  decide

theorem busState_begun : ConvertBegun (busState (.busConvertCur 2) .select 2 0 none) :=
  ⟨rfl, rfl, .inr ⟨rfl, rfl⟩, rfl, rfl, rfl⟩

theorem witness_ConvertReadsUntilReady : ConvertBegun (busState (.busConvertCur 2) .select 2 0 none) ∧
    (∀ b ∈ ([(0, 0, 0x80)] : List (Byte × Byte × Byte)), 128 ≤ b.2.2.toNat) ∧ (0x00 : Byte).toNat < 128 ∧
    ([(0, 0, 0x80)] : List (Byte × Byte × Byte)).length < (2 : Half).toNat :=
  ⟨busState_begun, by simp, by decide, by decide⟩

theorem witness_ConvertBudgetEnds : ConvertBegun (busState (.busConvertCur 2) .select 2 0 none) ∧
    (∀ b ∈ ([(0, 0, 0x80)] : List (Byte × Byte × Byte)), 128 ≤ b.2.2.toNat) ∧ 128 ≤ (0xFF : Byte).toNat ∧
    ([(0, 0, 0x80)] : List (Byte × Byte × Byte)).length + 1 = (2 : Half).toNat :=
  ⟨busState_begun, by simp, by decide, by decide⟩

theorem selecting_inv : Inv (busState (.busConvertCur 2) .select 2 0 none) where
  buf := Memory.wf_nil
  ser := SerInv_reset _
  bus := (BusInv_running rfl).2 ⟨rfl, rfl, rfl, .inr ⟨rfl, rfl⟩, rfl, rfl, rfl⟩

theorem polling_inv : Inv (busState (.busConvertCur 1) .poll 1 0 none) where
  buf := Memory.wf_nil
  ser := SerInv_reset _
  bus := (BusInv_running rfl).2 ⟨rfl, rfl, rfl, .inr ⟨rfl, rfl⟩, by decide, .inl ⟨rfl, rfl, rfl⟩⟩

theorem witness_ConvertEndsWithinItsBudget :
    (let s := busState (.busConvertCur 2) .select 2 0 none;
      Inv s ∧ s.bus.st.busy = true ∧ ([.ok 0 0 0, .ok 0 0 0x80, .ok 0 0 0x80] : List BusAnswer).length =
        s.bus.maxr.toNat - s.bus.reads.toNat + (if s.bus.phase = .select then 1 else 0)) ∧
    (let s := busState (.busConvertCur 1) .poll 1 0 none;
      Inv s ∧ s.bus.st.busy = true ∧ ([.err] : List BusAnswer).length =
        s.bus.maxr.toNat - s.bus.reads.toNat + (if s.bus.phase = .select then 1 else 0)) :=
  ⟨⟨selecting_inv, rfl, rfl⟩, polling_inv, rfl, rfl⟩

theorem witness_StalledBusStaysBusy :
    let s := busState (.busConvertCur 2) .poll 2 0 none;
    s.bus.st.busy = true ∧ s.bus.phase ≠ .idle ∧ decode .bus s.bus.cmd = .ok (.busConvertCur 2) :=
  ⟨rfl, by decide, rfl⟩

theorem witness_SerCommandFrame :
    (Instr.serReadn 3).engine = .ser ∧ (∃ t, exec (.serReadn 3) State.reset = .next t) ∧
    State.reset.turn = .issue ∧
    (let s := serState .serFrame .scan 0 0 0 [0x7B];
      (∃ t, exec .serFrame s = .next t) ∧ s.turn = .engine none) :=
  ⟨rfl, ⟨_, rfl⟩, rfl, ⟨_, rfl⟩, rfl⟩

theorem witness_SerEngineStepFrame :
    (let s := serState (.serReadn 1) .readn 1 0 0 [0xAA];
      s.turn = .engine none ∧ ∃ t, exec (.serReadn 1) s = .next t) ∧
    (let s := serState .serFrame .scan 0 0 0 [0x7B];
      s.turn = .engine none ∧ (∃ t, exec .serFrame s = .next t) ∧ s.ser.phase ≠ .header ∧
      s.ser.phase ≠ .tail) ∧
    (serState .serFrame .tail 2 0 4 [0x00]).ser.phase ≠ .scan :=
  ⟨⟨rfl, _, rfl⟩, ⟨rfl, ⟨_, rfl⟩, by decide, by decide⟩, by decide⟩

theorem witness_BusCommandFrame :
    (Instr.busConvertWind 1).engine = .bus ∧
    (∃ t, exec (.busConvertWind 1) State.reset = .next t) ∧ State.reset.turn = .issue ∧
    (let s := busState (.busConvertCur 1) .poll 1 0 (some (.ok 0 0 0));
      (∃ t, exec (.busConvertCur 1) s = .next t) ∧ s.turn = .engine (some (.ok 0 0 0)) ∧
      s.bus.st.busy = true) := ⟨rfl, ⟨_, rfl⟩, rfl, ⟨_, rfl⟩, rfl, rfl⟩

theorem witness_ChannelBytesTakenInOrder :
    (let s := serState (.serReadn 1) .readn 1 0 0 [0xAA]; step s = .next (after s) ∧ (after s).rxq ≠ s.rxq) ∧
    (let s := next (.rxByte 0x11) State.reset; step s = .next (after s) ∧ nextMove s = .rxByte 0x11) ∧
    (let s := next (.rxErr true) State.reset; step s = .next (after s) ∧ nextMove s = .rxErr true) :=
  ⟨⟨rfl, by decide⟩, ⟨rfl, rfl⟩, ⟨rfl, rfl⟩⟩

theorem witness_OnlySerWritesBuffer :
    let s := withBuf [0x00] (serState .serFrame .scan 0 0 0 [0x7B]);
    step s = .next (after s) ∧ nextMove s ≠ .reset ∧ (after s).buf.byte 0 ≠ s.buf.byte 0 := ⟨rfl, by decide, by decide⟩

theorem witness_OnlyClockMovesTime :
    (let s := next .clock { State.reset with now := 0xFFFFFFFFFFFFFFFF };
      nextMove s = .clock ∧ step s = .next (after s) ∧ (after s).now ≠ s.now) ∧
    (let s := next .reset { State.reset with now := 5 }; step s = .next (after s) ∧ (after s).now ≠ s.now) :=
  ⟨⟨rfl, rfl, by decide⟩, ⟨rfl, by decide⟩⟩

theorem witness_EngineStepsCommute : ∃ t, runMoves [.ser, .bus none] (serState (.serReadn 1) .readn 1 0 0 [0xAA]) = .next t :=
  ⟨_, rfl⟩

theorem witness_EnginesShareOnlyTime :
    (let s := serState (.serReadn 1) .readn 1 0 0 [0xAA]; nextMove s = .ser ∧ step s = .next (after s)) ∧
    (let s := busState (.busConvertCur 1) .poll 1 0 (some (.ok 0 0 0));
      nextMove s = .bus (some (.ok 0 0 0)) ∧ step s = .next (after s)) := ⟨⟨rfl, rfl⟩, ⟨rfl, rfl⟩⟩

theorem witness_ImpossiblePhaseFaults :
    (let s := serState (.serReadn 1) .check 1 0 0 []; s.turn = .engine none ∧ s.ser.phase ≠ .readn) ∧
    (let s := serState .serFrame .readn 1 0 0 []; s.turn = .engine none ∧ s.ser.phase = .readn) ∧
    (let s := busState (.busConvertCur 1) .idle 1 0 none; s.turn = .engine none ∧ s.bus.phase = .idle) ∧
    (let s := serState .serFrame .scan 0 0 0 [];
      let s := { s with ser := { s.ser with cmd := 0 } };
      nextMove s = .ser ∧ s.ser.st.busy = true ∧ decode .ser s.ser.cmd = .error .opcode) ∧
    (let s := busState (.busConvertCur 1) .poll 1 0 none;
      let s := { s with bus := { s.bus with cmd := 0 } };
      nextMove s = .bus none ∧ s.bus.st.busy = true ∧ decode .bus s.bus.cmd = .error .opcode) :=
  ⟨by decide, by decide, by decide, ⟨rfl, rfl, rfl⟩, ⟨rfl, rfl, rfl⟩⟩

end Sys2Proof.Tests
end

/-! # Proofs: what one step of the block can do, once for every statement about steps -/

namespace Sys2Proof.Machine

open Sys2Proof

/-! ## The command of a word -/

/-- The word of the command it decodes to is the word itself (30_encoding.md R95). -/
theorem encode_of_decode_ser {w : Word} {i : Instr} (h : decode .ser w = .ok i) : encode i = w := by
  apply BitVec.eq_of_toNat_eq
  rcases decodeSer_cases w with ⟨hop, hrs, e⟩ | ⟨hop, hrs, harg, e⟩ | ⟨_, e⟩ <;> rw [e] at h <;> cases h
  all_goals
    have hop := congrArg BitVec.toNat hop
    have hrs := congrArg BitVec.toNat hrs
    simp only [opField, serRsvdField, field_toNat] at hop hrs
    simp at hop hrs
  · rw [encode_serReadn_toNat, argField, field_toNat]
    omega
  · have harg := congrArg BitVec.toNat harg
    simp only [argField, field_toNat] at harg
    simp at harg
    rw [show (encode .serFrame).toNat = 2 from rfl]
    omega

/-- The same for BUS. -/
theorem encode_of_decode_bus {w : Word} {i : Instr} (h : decode .bus w = .ok i) : encode i = w := by
  apply BitVec.eq_of_toNat_eq
  rcases decodeBus_cases w with ⟨hop, hrs, _, hsel, e⟩ | ⟨hop, hrs, _, hsel, e⟩ | ⟨_, e⟩ <;> rw [e] at h <;> cases h
  all_goals
    have hop := congrArg BitVec.toNat hop
    have hrs := congrArg BitVec.toNat hrs
    have hsel := congrArg BitVec.toNat hsel
    simp only [opField, busRsvdField, selField, field_toNat, Config.selWind, Config.selCur] at hop hrs hsel
    simp at hop hrs hsel
  · rw [encode_busConvertWind_toNat, argField, field_toNat]
    omega
  · rw [encode_busConvertCur_toNat, argField, field_toNat]
    omega

/-! ## Issuing -/

/-- What a word written to SER_CMD does to `s` (43_host_access.md R183, R184, 60_exceptions.md R217). -/
inductive SerIssue (w : Word) (s : State) : State → Prop where
  | rejected (busy : s.ser.st.busy = true) : SerIssue w s (s.setSer { s.ser with st := s.ser.st.reject })
  | illegal (idle : s.ser.st.busy = false) (d : CmdError) (hd : decode .ser w = .error d) :
    SerIssue w s (raiseSer .illegalCommand d.detail (s.setSer { acceptSer w s with phase := .idle }))
  | readn (idle : s.ser.st.busy = false) (n : Half) (hd : decode .ser w = .ok (.serReadn n)) :
    SerIssue w s (s.setSer (readnInit n { acceptSer w s with st := (acceptSer w s).st.start }))
  | frame (idle : s.ser.st.busy = false) (hd : decode .ser w = .ok .serFrame) :
    SerIssue w s (s.setSer (frameInit { acceptSer w s with st := (acceptSer w s).st.start }))

/-- What a word written to BUS_CMD does to `s` (43_host_access.md R183, R184, 60_exceptions.md R217). -/
inductive BusIssue (w : Word) (s : State) : State → Prop where
  | rejected (busy : s.bus.st.busy = true) : BusIssue w s (s.setBus { s.bus with st := s.bus.st.reject })
  | illegal (idle : s.bus.st.busy = false) (d : CmdError) (hd : decode .bus w = .error d) :
    BusIssue w s (raiseBus .illegalCommand d.detail (s.setBus { acceptBus w s with phase := .idle }))
  | convert (idle : s.bus.st.busy = false) (m : Half)
    (hd : decode .bus w = .ok (.busConvertWind m) ∨ decode .bus w = .ok (.busConvertCur m)) :
    BusIssue w s (s.setBus (convertInit m { acceptBus w s with st := (acceptBus w s).st.start }))

/-- A word written to SER_CMD always has a meaning. -/
theorem hostWriteCmd_ser {s : State} (w : Word) (ht : s.turn = .issue) :
    ∃ t, hostWriteCmd .ser w s = .next t ∧ SerIssue w s t := by
  cases hb : s.ser.st.busy with
  | true =>
    refine ⟨_, ?_, .rejected hb⟩
    cases hd : decode .ser w with
    | error d => simp [hostWriteCmd, hd, issueIllegal, issueSer_busy _ _ hb]
    | ok i =>
      rcases decodeSer_ok hd with rfl | rfl
      · simp [hostWriteCmd, hd, exec, execSerReadn_issue _ ht, issueSer_busy _ _ hb]
      · simp [hostWriteCmd, hd, exec, execSerFrame_issue ht, issueSer_busy _ _ hb]
  | false =>
    cases hd : decode .ser w with
    | error d => exact ⟨_, by simp [hostWriteCmd, hd, issueIllegal, issueSer_error _ hb hd], .illegal hb d hd⟩
    | ok i =>
      have he := encode_of_decode_ser hd
      rcases decodeSer_ok hd with rfl | rfl
      · exact ⟨_, by simp [hostWriteCmd, hd, exec, execSerReadn_issue _ ht, he, issueSer_ok _ hb hd], .readn hb _ hd⟩
      · exact ⟨_, by simp [hostWriteCmd, hd, exec, execSerFrame_issue ht, he, issueSer_ok _ hb hd], .frame hb hd⟩

/-- A word written to BUS_CMD always has a meaning. -/
theorem hostWriteCmd_bus {s : State} (w : Word) (ht : s.turn = .issue) :
    ∃ t, hostWriteCmd .bus w s = .next t ∧ BusIssue w s t := by
  cases hb : s.bus.st.busy with
  | true =>
    refine ⟨_, ?_, .rejected hb⟩
    cases hd : decode .bus w with
    | error d => simp [hostWriteCmd, hd, issueIllegal, issueBus_busy _ _ hb]
    | ok i =>
      rcases decodeBus_ok hd with rfl | rfl
      · simp [hostWriteCmd, hd, exec, execBusConvertWind_issue _ ht, issueBus_busy _ _ hb]
      · simp [hostWriteCmd, hd, exec, execBusConvertCur_issue _ ht, issueBus_busy _ _ hb]
  | false =>
    cases hd : decode .bus w with
    | error d => exact ⟨_, by simp [hostWriteCmd, hd, issueIllegal, issueBus_error _ hb hd], .illegal hb d hd⟩
    | ok i =>
      have he := encode_of_decode_bus hd
      rcases decodeBus_ok hd with rfl | rfl
      · exact ⟨_, by simp [hostWriteCmd, hd, exec, execBusConvertWind_issue _ ht, he, issueBus_ok _ hb hd],
          .convert hb _ (.inl hd)⟩
      · exact ⟨_, by simp [hostWriteCmd, hd, exec, execBusConvertCur_issue _ ht, he, issueBus_ok _ hb hd],
          .convert hb _ (.inr hd)⟩

/-! ## Engine steps -/

/-- What one step of a busy SER engine does to `s`, by its phase (40_exact_reader.md R110, 41_frame_scanner.md R130). -/
inductive SerStep (s : State) : State → Prop where
  | scan (hd : decode .ser s.ser.cmd = .ok .serFrame) (hp : s.ser.phase = .scan) : SerStep s (scanStep s)
  | header (hd : decode .ser s.ser.cmd = .ok .serFrame) (hp : s.ser.phase = .header) : SerStep s (erStep headerDone s)
  | tail (hd : decode .ser s.ser.cmd = .ok .serFrame) (hp : s.ser.phase = .tail) : SerStep s (erStep tailDone s)
  | readn (n : Half) (hd : decode .ser s.ser.cmd = .ok (.serReadn n)) (hp : s.ser.phase = .readn) :
    SerStep s (erStep readnDone s)

/-- What one step of a busy BUS engine does to `s`, by its phase (42_conversion_poller.md R160). -/
inductive BusStep (answer : Option BusAnswer) (s : State) : State → Prop where
  | select (hp : s.bus.phase = .select) : BusStep answer s (selectStep answer s)
  | poll (hp : s.bus.phase = .poll) : BusStep answer s (pollStep answer s)

theorem serStep_of_exec {s t : State} {i : Instr} {a : Option BusAnswer} (ht : s.turn = .engine a)
    (hd : decode .ser s.ser.cmd = .ok i) (h : exec i s = .next t) : SerStep s t := by
  rcases decodeSer_ok hd with rfl | rfl
  · cases hp : s.ser.phase <;> simp [exec, execSerReadn, ht, hp] at h
    exact h ▸ .readn _ hd hp
  · cases hp : s.ser.phase <;> simp [exec, execSerFrame, ht, hp] at h
    · exact h ▸ .scan hd hp
    · exact h ▸ .header hd hp
    · exact h ▸ .tail hd hp

theorem busStep_of_convertStep {s t : State} {a : Option BusAnswer} (h : convertStep a s = .next t) :
    BusStep a s t := by
  cases hp : s.bus.phase <;> simp [convertStep, hp] at h
  · exact h ▸ .select hp
  · exact h ▸ .poll hp

theorem busStep_of_exec {s t : State} {i : Instr} {a : Option BusAnswer} (ht : s.turn = .engine a)
    (hd : decode .bus s.bus.cmd = .ok i) (h : exec i s = .next t) : BusStep a s t := by
  rcases decodeBus_ok hd with rfl | rfl
  · exact busStep_of_convertStep (execBusConvertWind_engine _ ht ▸ h)
  · exact busStep_of_convertStep (execBusConvertCur_engine _ ht ▸ h)

/-! ## One move -/

/-- What the move `m`, made in `s`, does to `s` (10_state.md R20). -/
inductive MoveEffect (m : Move) (s : State) : State → Prop where
  | hostRead (off : Offset) (hm : m = .hostRead 32 off) : MoveEffect m s (s.setHostV (hostReadValue s off))
  | ignored (off : Offset) (v : Word) (hm : m = .hostWrite 32 off v)
    (hro : ∀ r ∈ [HostReg.serCmd, .serDeadlineLo, .serDeadlineHi, .busCmd], off ≠ r.offset) : MoveEffect m s s
  | deadlineLo (v : Word) (hm : m = .hostWrite 32 HostReg.serDeadlineLo.offset v) : MoveEffect m s (s.setDlLo v)
  | deadlineHi (v : Word) (hm : m = .hostWrite 32 HostReg.serDeadlineHi.offset v) : MoveEffect m s (s.setDlHi v)
  | serIssue (w : Word) (hm : m = .hostWrite 32 HostReg.serCmd.offset w) {t : State} (h : SerIssue w s t) :
    MoveEffect m s t
  | busIssue (w : Word) (hm : m = .hostWrite 32 HostReg.busCmd.offset w) {t : State} (h : BusIssue w s t) :
    MoveEffect m s t
  | serIdle (hm : m = .ser) (idle : s.ser.st.busy = false) : MoveEffect m s s
  | serStep (hm : m = .ser) (busy : s.ser.st.busy = true) {t : State} (h : SerStep s t) : MoveEffect m s t
  | busIdle (a : Option BusAnswer) (hm : m = .bus a) (idle : s.bus.st.busy = false) : MoveEffect m s s
  | busStep (a : Option BusAnswer) (hm : m = .bus a) (busy : s.bus.st.busy = true) {t : State} (h : BusStep a s t) :
    MoveEffect m s t
  | clock (hm : m = .clock) : MoveEffect m s (s.setNow (s.now + 1))
  | rxByte (b : Byte) (hm : m = .rxByte b) : MoveEffect m s (s.setRxq (s.rxq ++ [b]))
  | rxErr (e : Bool) (hm : m = .rxErr e) : MoveEffect m s (s.setRxErr e)
  | reset (hm : m = .reset) : MoveEffect m s (assertReset s)

/-- A HOST access that answers is 32 bits wide and performed. -/
theorem hostAccess_next {bits : Nat} {off : Offset} {access : Host.Outcome State Fault Refusal} {t : State}
    (h : hostAccess bits off access = .next t) : bits = 32 ∧ access = .next t := by
  simp only [hostAccess] at h
  split at h
  · cases h
  · rename_i hbits
    split at h
    · exact ⟨by simpa using hbits, h⟩
    · cases h

/-- A HOST access of 32 bits at a multiple of 4 is performed. -/
theorem hostAccess_aligned {off : Offset} (access : Host.Outcome State Fault Refusal) (h : off.toNat % 4 = 0) :
    hostAccess 32 off access = access := by
  simp [hostAccess, aligned, h]

theorem hostWrite_effect {off : Offset} {v : Word} {s t : State} (ht : s.turn = .issue)
    (h : hostWrite off v s = .next t) : MoveEffect (.hostWrite 32 off v) s t := by
  cases hr : regAt off with
  | none =>
    simp only [hostWrite, hr] at h
    cases h
    refine .ignored off v rfl fun r _ hoff => ?_
    rw [hoff, regAt_offset] at hr
    cases hr
  | some r =>
    obtain rfl := offset_of_regAt hr
    cases r <;> simp only [hostWrite, hr] at h
    case serCmd =>
      obtain ⟨t', e, hi⟩ := hostWriteCmd_ser v ht
      rw [e] at h
      cases h
      exact .serIssue v rfl hi
    case busCmd =>
      obtain ⟨t', e, hi⟩ := hostWriteCmd_bus v ht
      rw [e] at h
      cases h
      exact .busIssue v rfl hi
    case serDeadlineLo => cases h; exact .deadlineLo v rfl
    case serDeadlineHi => cases h; exact .deadlineHi v rfl
    all_goals cases h; exact .ignored _ v rfl (by decide)

theorem serMove_effect {s t : State} (ht : s.turn = .engine none) (h : serMove s = .next t) :
    MoveEffect .ser s t := by
  simp only [serMove] at h
  split at h <;> rename_i hb
  · split at h
    · exact .serStep rfl hb (serStep_of_exec ht ‹_› h)
    · cases h
  · cases h
    exact .serIdle rfl (by simpa using hb)

theorem busMove_effect {s t : State} {a : Option BusAnswer} (ht : s.turn = .engine a) (h : busMove s = .next t) :
    MoveEffect (.bus a) s t := by
  simp only [busMove] at h
  split at h <;> rename_i hb
  · split at h
    · exact .busStep a rfl hb (busStep_of_exec ht ‹_› h)
    · cases h
  · cases h
    exact .busIdle a rfl (by simpa using hb)

theorem makeMove_effect {m : Move} {s t : State} (ht : s.turn = m.turn) (h : makeMove m s = .next t) :
    MoveEffect m s t := by
  cases m with
  | hostRead bits off =>
    obtain ⟨hbits, hread⟩ := hostAccess_next h
    subst hbits
    cases hread
    exact .hostRead off rfl
  | hostWrite bits off v =>
    obtain ⟨hbits, hwrite⟩ := hostAccess_next h
    subst hbits
    exact hostWrite_effect ht hwrite
  | ser => exact serMove_effect ht h
  | bus a => exact busMove_effect ht h
  | clock => cases h; exact .clock rfl
  | rxByte b => cases h; exact .rxByte b rfl
  | rxErr e => cases h; exact .rxErr e rfl
  | reset => cases h; exact .reset rfl

/-- Everything a step that answers can have done. -/
theorem step_effect {s t : State} (h : step s = .next t) : MoveEffect (nextMove s) (takeMove s) t :=
  makeMove_effect (takeMove_turn s) h

/-- A step makes the next move. -/
theorem step_of_nextMove {s : State} {m : Move} (h : nextMove s = m) : step s = makeMove m (takeMove s) := by
  rw [step, h]

@[simp] theorem takeMove_ser (s : State) : (takeMove s).ser = s.ser := by simp [takeMove_fields]
@[simp] theorem takeMove_bus (s : State) : (takeMove s).bus = s.bus := by simp [takeMove_fields]
@[simp] theorem takeMove_dlLo (s : State) : (takeMove s).dlLo = s.dlLo := by simp [takeMove_fields]
@[simp] theorem takeMove_dlHi (s : State) : (takeMove s).dlHi = s.dlHi := by simp [takeMove_fields]
@[simp] theorem takeMove_now (s : State) : (takeMove s).now = s.now := by simp [takeMove_fields]
@[simp] theorem takeMove_buf (s : State) : (takeMove s).buf = s.buf := by simp [takeMove_fields]
@[simp] theorem takeMove_rxq (s : State) : (takeMove s).rxq = s.rxq := by simp [takeMove_fields]
@[simp] theorem takeMove_rxErr (s : State) : (takeMove s).rxErr = s.rxErr := by simp [takeMove_fields]
@[simp] theorem takeMove_busTrace (s : State) : (takeMove s).busTrace = s.busTrace := by simp [takeMove_fields]
@[simp] theorem takeMove_hostV (s : State) : (takeMove s).hostV = s.hostV := by simp [takeMove_fields]

end Sys2Proof.Machine

/-! # Proofs: the frame of each engine's operations, and the invariant of the whole block -/

namespace Sys2Proof.Machine

open Sys2Proof

/-! ## What an engine's operation leaves unchanged -/

theorem OnlySerChanged.refl (s : State) : OnlySerChanged s s := by simp [OnlySerChanged]

section
variable {s t : State} (h : OnlySerChanged s t)
include h

theorem OnlySerChanged.setSer (e : SerEngine) : OnlySerChanged s (t.setSer e) := h
theorem OnlySerChanged.raiseSer (r : Result) (d : BitVec 2) : OnlySerChanged s (raiseSer r d t) := h
theorem OnlySerChanged.setRxq (q : List Byte) : OnlySerChanged s (t.setRxq q) := h
theorem OnlySerChanged.memWrite (a : Nat) (b : Byte) : OnlySerChanged s (t.setBuf (t.buf.memWrite a b)) := h

theorem OnlySerChanged.erStore (b : Byte) : OnlySerChanged s (erStore b t) := (h.memWrite _ b).setSer _

theorem OnlySerChanged.headerDone : OnlySerChanged s (headerDone t) := by
  unfold Machine.headerDone
  split
  · exact (h.setSer _).raiseSer _ _
  · exact h.setSer _

theorem OnlySerChanged.tailDone : OnlySerChanged s (tailDone t) := by
  unfold Machine.tailDone
  split
  · exact (h.setSer _).raiseSer _ _
  · split <;> exact (h.setSer _).raiseSer _ _

end

/-- An Exact Reader step by its parts: `I` holds where the phase goes on or its command ends, and the completion action
leads from `I` to `P` (40_exact_reader.md R111). -/
theorem erStep_parts {I P : State → Prop} {done : State → State} {s : State} (hwait : I s)
    (hraise : ∀ r, I (raiseSer r 0 s)) (hstore : ∀ b rest, I (erStore b (s.setRxq rest)))
    (hgo : ∀ t, I t → P t) (hdone : ∀ t, I t → P (done t)) : P (erStep done s) := by
  rcases erStep_cases done s with
      ⟨_, e⟩ | ⟨_, _, e⟩ | ⟨_, _, _, e⟩ | ⟨_, _, _, _, e⟩ | ⟨b, rest, _, _, _, _, _, e⟩ | ⟨b, rest, _, _, _, _, _, e⟩ <;>
    rw [e]
  · exact hdone _ hwait
  · exact hgo _ (hraise _)
  · exact hgo _ (hraise _)
  · exact hgo _ hwait
  · exact hdone _ (hstore b rest)
  · exact hgo _ (hstore b rest)

/-- An Exact Reader step changes no more than its completion action and a byte taken and stored do. -/
theorem erStep_onlySerChanged {done : State → State} {s : State}
    (hdone : ∀ t, OnlySerChanged s t → OnlySerChanged s (done t)) : OnlySerChanged s (erStep done s) :=
  have h := OnlySerChanged.refl s
  erStep_parts h (fun r => h.raiseSer r 0) (fun b rest => (h.setRxq rest).erStore b) (fun _ h => h) hdone

theorem scanStep_onlySerChanged (s : State) : OnlySerChanged s (scanStep s) := by
  have h := OnlySerChanged.refl s
  rcases scanStep_cases s with
      ⟨_, e⟩ | ⟨_, _, e⟩ | ⟨_, _, _, e⟩ | ⟨rest, _, _, _, e⟩ | ⟨b, rest, _, _, _, _, e⟩ <;>
    rw [e]
  · exact h.raiseSer _ _
  · exact h.raiseSer _ _
  · exact h
  · exact ((h.setRxq rest).memWrite _ _).setSer _
  · exact (h.setRxq rest).setSer _

theorem SerStep.onlySerChanged {s t : State} (h : SerStep s t) : OnlySerChanged s t := by
  cases h with
  | scan => exact scanStep_onlySerChanged s
  | header => exact erStep_onlySerChanged fun _ h => h.headerDone
  | tail => exact erStep_onlySerChanged fun _ h => h.tailDone
  | readn => exact erStep_onlySerChanged fun _ h => h.raiseSer _ _

/-- A word written to SER_CMD changes the SER engine alone (43_host_access.md R183, R184). -/
theorem SerIssue.eq_setSer {w : Word} {s t : State} (h : SerIssue w s t) : t = s.setSer t.ser := by
  cases h <;> rfl

/-- A word written to BUS_CMD changes the BUS engine alone (43_host_access.md R183, R184). -/
theorem BusIssue.eq_setBus {w : Word} {s t : State} (h : BusIssue w s t) : t = s.setBus t.bus := by
  cases h <;> rfl

theorem OnlyBusChanged.refl (s : State) : OnlyBusChanged s s := by simp [OnlyBusChanged]

theorem selectStep_onlyBusChanged (a : Option BusAnswer) (s : State) : OnlyBusChanged s (selectStep a s) :=
  match a with
  | none => .refl s
  | some .err => OnlyBusChanged.refl s
  | some (.ok _ _ _) => OnlyBusChanged.refl s

theorem pollStep_onlyBusChanged (a : Option BusAnswer) (s : State) : OnlyBusChanged s (pollStep a s) := by
  rcases pollStep_cases a s with
      ⟨_, e⟩ | ⟨_, e⟩ | ⟨_, _, _, _, _, e⟩ | ⟨_, _, _, _, _, _, e⟩ | ⟨_, _, _, _, _, _, e⟩ <;>
    rw [e] <;> exact OnlyBusChanged.refl s

theorem BusStep.onlyBusChanged {a : Option BusAnswer} {s t : State} (h : BusStep a s t) : OnlyBusChanged s t := by
  cases h with
  | select => exact selectStep_onlyBusChanged a s
  | poll => exact pollStep_onlyBusChanged a s

/-! ## The frame buffer's canonical form -/

theorem headerDone_buf (s : State) : (headerDone s).buf = s.buf := by
  unfold headerDone
  split <;> rfl

theorem tailDone_buf (s : State) : (tailDone s).buf = s.buf := by
  unfold tailDone
  split
  · rfl
  · split <;> rfl

/-- A byte is stored inside the buffer, so its canonical form is kept (20_memory.md R60, R61). -/
theorem erStore_wf (b : Byte) {s : State} (h : Memory.wf s.buf.bytes) : Memory.wf (erStore b s).buf.bytes :=
  Memory.wf_write b h s.ser.total.isLt

theorem erStep_wf {done : State → State} (hdone : ∀ s, (done s).buf = s.buf) {s : State}
    (h : Memory.wf s.buf.bytes) : Memory.wf (erStep done s).buf.bytes :=
  erStep_parts (I := fun t => Memory.wf t.buf.bytes) (P := fun t => Memory.wf t.buf.bytes) h (fun _ => h)
    (fun b rest => erStore_wf b (s := s.setRxq rest) h) (fun _ h => h) (fun t h => (hdone t).symm ▸ h)

theorem scanStep_wf {s : State} (h : Memory.wf s.buf.bytes) : Memory.wf (scanStep s).buf.bytes := by
  rcases scanStep_cases s with
      ⟨_, e⟩ | ⟨_, _, e⟩ | ⟨_, _, _, e⟩ | ⟨rest, _, _, _, e⟩ | ⟨b, rest, _, _, _, _, e⟩ <;>
    rw [e]
  · exact h
  · exact h
  · exact h
  · exact Memory.wf_write _ h (by decide)
  · exact h

theorem SerStep.wf {s t : State} (hs : SerStep s t) (h : Memory.wf s.buf.bytes) : Memory.wf t.buf.bytes := by
  cases hs with
  | scan => exact scanStep_wf h
  | header => exact erStep_wf headerDone_buf h
  | tail => exact erStep_wf tailDone_buf h
  | readn => exact erStep_wf (done := readnDone) (fun _ => rfl) h

/-! ## The engines' consistency -/

theorem SerStep.inv {s t : State} (hs : SerStep s t) (hb : s.ser.st.busy = true) (h : SerInv s.ser s.buf) :
    SerInv t.ser t.buf := by
  cases hs with
  | scan _ hp => exact scanStep_inv h hb hp
  | header _ hp => exact headerStep_inv h hb hp
  | tail _ hp => exact tailStep_inv h hb hp
  | readn _ _ hp => exact readnStep_inv h hb hp

theorem BusStep.inv {a : Option BusAnswer} {s t : State} (hs : BusStep a s t) (hb : s.bus.st.busy = true)
    (h : BusInv s.bus) : BusInv t.bus := by
  cases hs with
  | select hp => exact selectStep_inv a h hb hp
  | poll hp => exact pollStep_inv a h hb hp

/-- Whatever word is written to SER_CMD, SER stays consistent: REJ is no part of its consistency, an illegal word ends
in IDLE, a command starts with nothing counted (43_host_access.md R183, R184). -/
theorem SerIssue.inv {w : Word} {s t : State} (hi : SerIssue w s t) (h : SerInv s.ser s.buf) : SerInv t.ser t.buf := by
  cases hi with
  | rejected busy =>
    obtain ⟨hdone, hres, hdet, hrun⟩ := (SerInv_running busy).1 h
    exact (SerInv_running (by exact busy)).2 ⟨hdone, hres, hdet, hrun⟩
  | illegal _ d hd =>
    exact SerInv_raiseSer _ _ ⟨rfl, ⟨d, hd, rfl⟩, rfl, rfl, rfl, rfl, rfl, rfl, rfl, rfl⟩
  | readn _ n hd =>
    have hle : (0 : Half) ≤ n := by simp [BitVec.le_def]
    have hcount : (0 : Half) < n ∨ n = 0 := by bv_omega
    exact SerInv_of_running rfl rfl rfl rfl
      ⟨⟨hd, hle, rfl, rfl, rfl, rfl, rfl, rfl⟩, hcount⟩
  | frame _ hd =>
    exact SerInv_of_running rfl rfl rfl rfl ⟨hd, rfl, rfl, rfl, rfl, rfl, rfl, rfl⟩

/-- A word that decodes on BUS carries its command's selector (30_encoding.md R85). -/
theorem convertFacts_of_decode {w : Word} {m : Half} {e : BusEngine}
    (hd : decode .bus w = .ok (.busConvertWind m) ∨ decode .bus w = .ok (.busConvertCur m))
    (hw : e.cmd = w) (hm : e.maxr = m) (hs : e.sel = selField w) : ConvertFacts e := by
  subst hw hm
  rw [ConvertFacts, hs]
  rcases decodeBus_cases e.cmd with ⟨_, _, _, hsel, k⟩ | ⟨_, _, _, hsel, k⟩ | ⟨d, k⟩
  · refine hd.imp (fun hd => ⟨hd, hsel⟩) (fun hd => ?_)
    rw [k] at hd
    cases hd
  · refine hd.imp (fun hd => ?_) (fun hd => ⟨hd, hsel⟩)
    rw [k] at hd
    cases hd
  · rw [k] at hd
    rcases hd with hd | hd <;> cases hd

/-- Whatever word is written to BUS_CMD, BUS stays consistent (43_host_access.md R183, R184). -/
theorem BusIssue.inv {w : Word} {s t : State} (hi : BusIssue w s t) (h : BusInv s.bus) : BusInv t.bus := by
  cases hi with
  | rejected busy =>
    obtain ⟨hdone, hres, hdet, hrun⟩ := (BusInv_running busy).1 h
    exact (BusInv_running (by exact busy)).2 ⟨hdone, hres, hdet, hrun⟩
  | illegal _ d hd =>
    exact BusInv_raiseBus _ _ ⟨rfl, ⟨d, hd, rfl⟩, ⟨rfl, rfl, rfl⟩, rfl⟩
  | convert _ m hd =>
    exact (BusInv_running rfl).2 ⟨rfl, rfl, rfl, convertFacts_of_decode hd rfl rfl rfl, rfl, rfl, rfl⟩

/-! ## The whole block -/

/-- The invariant is about the engines and the buffer alone. -/
theorem Inv.congr {s t : State} (h : Inv s) (hser : t.ser = s.ser) (hbus : t.bus = s.bus) (hbuf : t.buf = s.buf) :
    Inv t :=
  ⟨hbuf ▸ h.buf, hser ▸ hbuf ▸ h.ser, hbus ▸ h.bus⟩

theorem Inv.takeMove {s : State} (h : Inv s) : Inv (takeMove s) := h.congr (by simp) (by simp) (by simp)

theorem assertReset_inv (s : State) : Inv (assertReset s) := ⟨Memory.wf_nil, SerInv_reset _, BusInv_reset⟩

theorem MoveEffect.inv {m : Move} {s t : State} (he : MoveEffect m s t) (h : Inv s) : Inv t := by
  cases he with
  | serIssue w _ hi =>
    have hframe := hi.eq_setSer
    have hbuf : t.buf = s.buf := hframe ▸ rfl
    have hbus : t.bus = s.bus := hframe ▸ rfl
    exact ⟨hbuf ▸ h.buf, hi.inv h.ser, hbus ▸ h.bus⟩
  | busIssue w _ hi =>
    have hframe := hi.eq_setBus
    have hbuf : t.buf = s.buf := hframe ▸ rfl
    have hser : t.ser = s.ser := hframe ▸ rfl
    exact ⟨hbuf ▸ h.buf, hser ▸ hbuf ▸ h.ser, hi.inv h.bus⟩
  | serStep _ busy hs =>
    obtain ⟨hbus, -⟩ := hs.onlySerChanged
    exact ⟨hs.wf h.buf, hs.inv busy h.ser, hbus ▸ h.bus⟩
  | busStep a _ busy hs =>
    obtain ⟨hser, -, -, -, hbuf, -⟩ := hs.onlyBusChanged
    exact ⟨hbuf ▸ h.buf, hser ▸ hbuf ▸ h.ser, hs.inv busy h.bus⟩
  | reset => exact assertReset_inv s
  | ignored | serIdle | busIdle => exact h
  | hostRead | deadlineLo | deadlineHi | clock | rxByte | rxErr => exact h.congr rfl rfl rfl

/-- Settles O11: each engine's operations keep that engine consistent and leave the other one alone, and every byte is
stored inside the buffer. -/
theorem stepKeepsInv : Obligations.StepKeepsInv :=
  fun _ _ h hstep => (step_effect hstep).inv h.takeMove

end Sys2Proof.Machine

/-! # Proofs: the state's fields over a step and at the host port -/

namespace Sys2Proof.Machine

open Sys2Proof

/-! ## The order of the phases -/

/-- The phases a SER step can lead to from each phase (10_state.md R22). -/
def SerPhaseNext (p q : SerPhase) : Prop :=
  q = p ∨ (p = .scan ∧ q = .header) ∨ (p = .header ∧ q = .tail) ∨ (p = .tail ∧ q = .check)

theorem scanStep_phase {s : State} (hp : s.ser.phase = .scan) :
    SerPhaseNext s.ser.phase (scanStep s).ser.phase := by
  rcases scanStep_cases s with
      ⟨_, e⟩ | ⟨_, _, e⟩ | ⟨_, _, _, e⟩ | ⟨rest, _, _, _, e⟩ | ⟨b, rest, _, _, _, _, e⟩ <;>
    rw [e]
  case inr.inr.inr.inl => exact .inr (.inl ⟨hp, rfl⟩)
  all_goals exact .inl rfl

/-- An Exact Reader step keeps the phase but for what its completion action makes of it. -/
theorem erStep_phase {done : State → State} {s : State}
    (hdone : ∀ t : State, t.ser.phase = s.ser.phase → SerPhaseNext s.ser.phase (done t).ser.phase) :
    SerPhaseNext s.ser.phase (erStep done s).ser.phase :=
  erStep_parts (I := fun t => t.ser.phase = s.ser.phase) (P := fun t => SerPhaseNext s.ser.phase t.ser.phase)
    rfl (fun _ => rfl) (fun _ _ => rfl) (fun _ h => .inl h) hdone

/-- A header ends in HEADER or leads to TAIL (41_frame_scanner.md R133). -/
theorem headerDone_phase (s : State) :
    (headerDone s).ser.phase = s.ser.phase ∨ (headerDone s).ser.phase = .tail := by
  unfold headerDone
  split
  · exact .inl rfl
  · exact .inr rfl

/-- The last tail byte leads to CHECK (41_frame_scanner.md R135). -/
theorem tailDone_phase (s : State) : (tailDone s).ser.phase = .check := by
  unfold tailDone
  split
  · rfl
  · split <;> rfl

theorem SerStep.phase {s t : State} (h : SerStep s t) : SerPhaseNext s.ser.phase t.ser.phase := by
  cases h with
  | scan _ hp => exact scanStep_phase hp
  | header _ hp =>
    refine erStep_phase fun u hu => ?_
    rcases headerDone_phase u with h | h
    · exact .inl (h.trans hu)
    · exact .inr (.inr (.inl ⟨hp, h⟩))
  | tail _ hp => exact erStep_phase fun u _ => .inr (.inr (.inr ⟨hp, tailDone_phase u⟩))
  | readn => exact erStep_phase fun u hu => .inl hu

theorem selectStep_phase (a : Option BusAnswer) (s : State) :
    (selectStep a s).bus.phase = s.bus.phase ∨ (selectStep a s).bus.phase = .poll :=
  match a with
  | none => .inl rfl
  | some .err => .inl rfl
  | some (.ok _ _ _) => .inr rfl

theorem pollStep_phase (a : Option BusAnswer) (s : State) : (pollStep a s).bus.phase = s.bus.phase := by
  rcases pollStep_cases a s with
      ⟨_, e⟩ | ⟨_, e⟩ | ⟨_, _, _, _, _, e⟩ | ⟨_, _, _, _, _, _, e⟩ | ⟨_, _, _, _, _, _, e⟩ <;>
    rw [e] <;> rfl

theorem BusStep.phase {a : Option BusAnswer} {s t : State} (h : BusStep a s t) :
    t.bus.phase = s.bus.phase ∨ (s.bus.phase = .select ∧ t.bus.phase = .poll) := by
  cases h with
  | select hp => exact (selectStep_phase a s).imp id fun h => ⟨hp, h⟩
  | poll => exact .inl (pollStep_phase a s)

/-- A word written to the CMD register of a busy engine leaves its phase (43_host_access.md R184). -/
theorem SerIssue.phase_of_busy {w : Word} {s t : State} (h : SerIssue w s t) (hb : s.ser.st.busy = true) :
    t.ser.phase = s.ser.phase := by
  cases h with
  | rejected => rfl
  | illegal idle | readn idle | frame idle => rw [idle] at hb; cases hb

theorem BusIssue.phase_of_busy {w : Word} {s t : State} (h : BusIssue w s t) (hb : s.bus.st.busy = true) :
    t.bus.phase = s.bus.phase := by
  cases h with
  | rejected => rfl
  | illegal idle | convert idle => rw [idle] at hb; cases hb

/-- While SER is busy, only its own steps change its phase. -/
theorem MoveEffect.ser_phase {m : Move} {s t : State} (he : MoveEffect m s t) (hm : m ≠ .reset)
    (hb : s.ser.st.busy = true) : SerPhaseNext s.ser.phase t.ser.phase := by
  cases he with
  | serIssue _ _ hi => exact .inl (hi.phase_of_busy hb)
  | busIssue _ _ hi => exact .inl (by rw [hi.eq_setBus]; rfl)
  | serStep _ _ hs => exact hs.phase
  | busStep _ _ _ hs =>
    obtain ⟨hser, -⟩ := hs.onlyBusChanged
    exact .inl (hser ▸ rfl)
  | reset h => exact absurd h hm
  | hostRead | ignored | deadlineLo | deadlineHi | serIdle | busIdle | clock | rxByte | rxErr => exact .inl rfl

/-- While BUS is busy, only its own steps change its phase. -/
theorem MoveEffect.bus_phase {m : Move} {s t : State} (he : MoveEffect m s t) (hm : m ≠ .reset)
    (hb : s.bus.st.busy = true) :
    t.bus.phase = s.bus.phase ∨ (s.bus.phase = .select ∧ t.bus.phase = .poll) := by
  cases he with
  | serIssue _ _ hi => exact .inl (by rw [hi.eq_setSer]; rfl)
  | busIssue _ _ hi => exact .inl (hi.phase_of_busy hb)
  | serStep _ _ hs =>
    obtain ⟨hbus, -⟩ := hs.onlySerChanged
    exact .inl (hbus ▸ rfl)
  | busStep _ _ _ hs => exact hs.phase
  | reset h => exact absurd h hm
  | hostRead | ignored | deadlineLo | deadlineHi | serIdle | busIdle | clock | rxByte | rxErr => exact .inl rfl

/-- Settles O16: a busy engine's phase is changed by its own steps alone, and those follow the order of the phases. -/
theorem phasesRunInOrder : Obligations.PhasesRunInOrder := by
  intro s t hstep hm
  have he := step_effect hstep
  exact ⟨fun hb => by simpa [SerPhaseNext] using he.ser_phase hm (by simpa using hb),
    fun hb => by simpa using he.bus_phase hm (by simpa using hb)⟩

/-! ## The fields of the registers -/

/-- Three fields side by side, each cut out where it stands. -/
theorem append_three_fields {l m n : Nat} (a : BitVec l) (b : BitVec m) (c : BitVec n) :
    (a ++ (b ++ c)).extractLsb' 0 n = c ∧ (a ++ (b ++ c)).extractLsb' n m = b ∧
    (a ++ (b ++ c)).extractLsb' (m + n) l = a := by
  refine ⟨?_, ?_, BitVec.extractLsb'_append_eq_left⟩
  · rw [BitVec.extractLsb'_append_eq_of_add_le (by omega), BitVec.extractLsb'_append_eq_right]
  · rw [BitVec.extractLsb'_append_eq_of_add_le (by omega), BitVec.extractLsb'_append_eq_left]

/-- A STATUS register as a number (10_state.md R25). -/
theorem statusWord_toNat (st : Status) (phase : BitVec 4) :
    (statusWord st phase).toNat =
      st.detail.toNat * 2 ^ 12 + phase.toNat * 2 ^ 8 + st.result.code.toNat * 2 ^ 4 +
        (BitVec.ofBool st.rej).toNat * 2 ^ 2 + (BitVec.ofBool st.done).toNat * 2 + (BitVec.ofBool st.busy).toNat := by
  simp only [statusWord, append_toNat]
  simp only [BitVec.ofNat_eq_ofNat, BitVec.toNat_ofNat]
  omega

/-- The fields of a STATUS register (10_state.md R25). -/
theorem statusWord_fields (st : Status) (phase : BitVec 4) :
    (statusWord st phase).extractLsb' 0 1 = BitVec.ofBool st.busy ∧
    (statusWord st phase).extractLsb' 1 1 = BitVec.ofBool st.done ∧
    (statusWord st phase).extractLsb' 2 1 = BitVec.ofBool st.rej ∧
    (statusWord st phase).extractLsb' 3 1 = (0 : BitVec 1) ∧
    (statusWord st phase).extractLsb' 4 4 = st.result.code ∧
    (statusWord st phase).extractLsb' 8 4 = phase ∧
    (statusWord st phase).extractLsb' 12 2 = st.detail ∧
    (statusWord st phase).extractLsb' 14 18 = (0 : BitVec 18) := by
  have hbusy := (BitVec.ofBool st.busy).isLt
  have hdone := (BitVec.ofBool st.done).isLt
  have hrej := (BitVec.ofBool st.rej).isLt
  have hresult := st.result.code.isLt
  have hphase := phase.isLt
  have hdetail := st.detail.isLt
  have hbit3 : (0 : BitVec 1).toNat = 0 := rfl
  have hhigh : (0 : BitVec 18).toNat = 0 := rfl
  refine ⟨?_, ?_, ?_, ?_, ?_, ?_, ?_, ?_⟩ <;> apply BitVec.eq_of_toNat_eq <;>
    rw [field_toNat, statusWord_toNat] <;> omega

/-- Settles O17: a register is its fields side by side, so a field is cut out of it where it stands. -/
theorem registerFields : Obligations.RegisterFields := fun _ =>
  ⟨statusWord_fields _ _, statusWord_fields _ _,
    Laws.TableMatch.halves (append_toNat _ _), Laws.TableMatch.halves (append_toNat _ _),
    append_three_fields _ _ _, append_three_fields _ _ _, append_three_fields _ _ _,
    Laws.TableMatch.halves (append_toNat _ _), BitVec.extractLsb'_append_extractLsb' (w := 32) (len := 32),
    rfl, rfl, rfl, rfl, rfl⟩

/-! ## The deadline registers -/

/-- A HOST write of a register is performed. -/
theorem makeMove_hostWrite_reg (r : HostReg) (v : Word) (s : State) :
    makeMove (.hostWrite 32 r.offset v) s = hostWrite r.offset v s :=
  hostAccess_aligned _ (by cases r <;> decide)

/-- A HOST read of a register returns its value. -/
theorem hostReadValue_reg (r : HostReg) (s : State) : hostReadValue s r.offset = regValue s r := by
  have hlow : ¬ windowBase ≤ r.offset.toNat := by cases r <;> decide
  simp [hostReadValue, hlow, regAt_offset]

/-- A word written to SER_CMD has a meaning, whatever the state. -/
theorem step_serCmd {s : State} {w : Word} (h : nextMove s = .hostWrite 32 HostReg.serCmd.offset w) :
    ∃ t, step s = .next t ∧ SerIssue w (takeMove s) t := by
  rw [step_of_nextMove h, makeMove_hostWrite_reg, hostWrite, regAt_offset]
  exact hostWriteCmd_ser w (by rw [takeMove_turn, h]; rfl)

/-- Every word an idle SER accepts, legal or not, latches the deadline registers (10_state.md R29). -/
theorem SerIssue.dl_of_idle {w : Word} {s t : State} (h : SerIssue w s t) (hb : s.ser.st.busy = false) :
    t.ser.dl = s.dlHi ++ s.dlLo := by
  cases h with
  | rejected busy => rw [hb] at busy; cases busy
  | illegal | readn | frame => rfl

/-- Settles O20: a deadline register is written by its own write alone, and the command word's write latches both. -/
theorem deadlineIsWrittenThenLatched : Obligations.DeadlineIsWrittenThenLatched := by
  refine ⟨fun s v h => ⟨_, ?_, rfl, ?_, by simp⟩, fun s v h => ⟨_, ?_, rfl, ?_, by simp⟩, fun s w h hb => ?_, rfl, rfl⟩
  · rw [step_of_nextMove h]
    exact (makeMove_hostWrite_reg .serDeadlineLo v _).trans rfl
  · exact hostReadValue_reg .serDeadlineLo _
  · rw [step_of_nextMove h]
    exact (makeMove_hostWrite_reg .serDeadlineHi v _).trans rfl
  · exact hostReadValue_reg .serDeadlineHi _
  · obtain ⟨t, hstep, hi⟩ := step_serCmd h
    have hdl := hi.dl_of_idle (by simpa using hb)
    have hlo : t.dlLo = s.dlLo := by rw [hi.eq_setSer]; simp
    have hhi : t.dlHi = s.dlHi := by rw [hi.eq_setSer]; simp
    exact ⟨t, hstep, by simpa using hdl, hlo, hhi⟩

/-! ## TIME -/

/-- Only CLOCK and reset change TIME (10_state.md R38). -/
theorem MoveEffect.now {m : Move} {s t : State} (he : MoveEffect m s t) :
    t.now = s.now ∨ m = .clock ∨ m = .reset := by
  cases he with
  | clock hm => exact .inr (.inl hm)
  | reset hm => exact .inr (.inr hm)
  | serIssue _ _ hi => exact .inl (by rw [hi.eq_setSer]; rfl)
  | busIssue _ _ hi => exact .inl (by rw [hi.eq_setBus]; rfl)
  | serStep _ _ hs =>
    obtain ⟨-, -, -, hnow, -⟩ := hs.onlySerChanged
    exact .inl hnow
  | busStep _ _ _ hs =>
    obtain ⟨-, -, -, hnow, -⟩ := hs.onlyBusChanged
    exact .inl hnow
  | hostRead | ignored | deadlineLo | deadlineHi | serIdle | busIdle | rxByte | rxErr => exact .inl rfl

/-- TIME_LO and TIME_HI are the halves of TIME (10_state.md R38). -/
theorem time_halves (s : State) :
    (regValue s .timeLo).toNat = s.now.toNat % 2 ^ 32 ∧ (regValue s .timeHi).toNat = s.now.toNat / 2 ^ 32 := by
  have hnow := s.now.isLt
  simp only [regValue, BitVec.extractLsb'_toNat, Nat.shiftRight_eq_div_pow]
  omega

/-- Settles O57: of all moves, only CLOCK and reset touch TIME. -/
theorem onlyClockMovesTime : Obligations.OnlyClockMovesTime := by
  refine ⟨fun s h => ⟨(takeMove s).setNow (s.now + 1), ?_, rfl, ?_⟩, fun s t hstep hne => ?_, rfl, time_halves⟩
  · rw [step_of_nextMove h, makeMove, takeMove_now]
  · simp [BitVec.toNat_add]
  · exact (step_effect hstep).now.resolve_left (by simpa using hne)

end Sys2Proof.Machine

/-! # Proofs: the frame buffer, the serial channel and the register bus over a step (20_memory.md) -/

namespace Sys2Proof.Machine

open Sys2Proof

/-! ## What one SER engine step leaves as it was -/

/-- Nothing but fields of the SER engine differs, and of those not CMD, the latched deadline and REJ. -/
structure OnlySerFieldsChanged (s t : State) : Prop where
  eq_setSer : t = s.setSer t.ser
  cmd : t.ser.cmd = s.ser.cmd
  dl : t.ser.dl = s.ser.dl
  rej : t.ser.st.rej = s.ser.st.rej

theorem raiseSer_onlySerFieldsChanged (r : Result) (d : BitVec 2) (s : State) :
    OnlySerFieldsChanged s (raiseSer r d s) := ⟨rfl, rfl, rfl, rfl⟩

theorem headerDone_onlySerFieldsChanged (s : State) : OnlySerFieldsChanged s (headerDone s) := by
  unfold headerDone
  split <;> exact ⟨rfl, rfl, rfl, rfl⟩

theorem tailDone_onlySerFieldsChanged (s : State) : OnlySerFieldsChanged s (tailDone s) := by
  unfold tailDone
  split
  · exact ⟨rfl, rfl, rfl, rfl⟩
  · split <;> exact ⟨rfl, rfl, rfl, rfl⟩

/-- The index of the byte that a SER engine step can store (40_exact_reader.md R112, 41_frame_scanner.md R131). -/
def serStoreIndex (s : State) : Nat := if s.ser.phase = .scan then 0 else s.ser.total.toNat

/-- The frame of a SER engine step from `s`: it takes at most the first byte of the queue and stores at most the byte at
`serStoreIndex` (20_memory.md R61, R64). -/
structure SerStepFrame (s t : State) : Prop where
  others : OnlySerChanged s t
  cmd : t.ser.cmd = s.ser.cmd
  dl : t.ser.dl = s.ser.dl
  rej : t.ser.st.rej = s.ser.st.rej
  queue : t.rxq = s.rxq ∨ ∃ b, s.rxq = b :: t.rxq
  bytes : ∀ j, j ≠ serStoreIndex s → t.buf.byte j = s.buf.byte j

theorem SerStepFrame.refl (s : State) : SerStepFrame s s :=
  ⟨.refl s, rfl, rfl, rfl, .inl rfl, fun _ _ => rfl⟩

/-- The first byte of the queue is taken (20_memory.md R63). -/
theorem SerStepFrame.take {s : State} {b : Byte} {rest : List Byte} (hq : s.rxq = b :: rest) :
    SerStepFrame s (s.setRxq rest) :=
  ⟨(OnlySerChanged.refl s).setRxq rest, rfl, rfl, rfl, .inr ⟨b, hq⟩, fun _ _ => rfl⟩

section
variable {s u : State} (h : SerStepFrame s u)
include h

/-- A byte is stored at the step's own index (20_memory.md R61). -/
theorem SerStepFrame.store {a : Nat} (ha : a = serStoreIndex s) (b : Byte) :
    SerStepFrame s (u.setBuf (u.buf.memWrite a b)) :=
  ⟨h.others.memWrite a b, h.cmd, h.dl, h.rej, h.queue,
    fun j hj => (FrameBuf.byte_memWrite_other u.buf b (ha ▸ hj)).trans (h.bytes j hj)⟩

/-- Fields of the engine are updated. -/
theorem SerStepFrame.update {t : State} (ht : OnlySerFieldsChanged u t) : SerStepFrame s t := by
  obtain ⟨heq, hcmd, hdl, hrej⟩ := ht
  have hqueue : t.rxq = u.rxq := heq ▸ rfl
  have hbuf : t.buf = u.buf := heq ▸ rfl
  exact ⟨heq ▸ h.others.setSer _, hcmd.trans h.cmd, hdl.trans h.dl, hrej.trans h.rej, hqueue ▸ h.queue, hbuf ▸ h.bytes⟩

end

theorem scanStep_frame {s : State} (hp : s.ser.phase = .scan) : SerStepFrame s (scanStep s) := by
  have hindex : 0 = serStoreIndex s := (if_pos hp).symm
  rcases scanStep_cases s with
      ⟨_, e⟩ | ⟨_, _, e⟩ | ⟨_, _, _, e⟩ | ⟨rest, _, _, hq, e⟩ | ⟨b, rest, _, _, hq, _, e⟩ <;>
    rw [e]
  · exact (SerStepFrame.refl s).update (raiseSer_onlySerFieldsChanged _ _ s)
  · exact (SerStepFrame.refl s).update (raiseSer_onlySerFieldsChanged _ _ s)
  · exact .refl s
  · exact ((SerStepFrame.take hq).store hindex _).update ⟨rfl, rfl, rfl, rfl⟩
  · exact (SerStepFrame.take hq).update ⟨rfl, rfl, rfl, rfl⟩

theorem erStep_frame {done : State → State} (hdone : ∀ u, OnlySerFieldsChanged u (done u)) {s : State}
    (hp : s.ser.phase ≠ .scan) : SerStepFrame s (erStep done s) := by
  have hstore : ∀ {b rest}, s.rxq = b :: rest → SerStepFrame s (erStore b (s.setRxq rest)) := fun hq =>
    ((SerStepFrame.take hq).store (if_neg hp).symm _).update ⟨rfl, rfl, rfl, rfl⟩
  rcases erStep_cases done s with
      ⟨_, e⟩ | ⟨_, _, e⟩ | ⟨_, _, _, e⟩ | ⟨_, _, _, _, e⟩ | ⟨b, rest, _, _, _, hq, _, e⟩ | ⟨b, rest, _, _, _, hq, _, e⟩ <;>
    rw [e]
  · exact (SerStepFrame.refl s).update (hdone s)
  · exact (SerStepFrame.refl s).update (raiseSer_onlySerFieldsChanged _ _ s)
  · exact (SerStepFrame.refl s).update (raiseSer_onlySerFieldsChanged _ _ s)
  · exact .refl s
  · exact (hstore hq).update (hdone _)
  · exact hstore hq

theorem headerStep_frame {s : State} (hp : s.ser.phase = .header) : SerStepFrame s (erStep headerDone s) :=
  erStep_frame headerDone_onlySerFieldsChanged (by simp [hp])

theorem tailStep_frame {s : State} (hp : s.ser.phase = .tail) : SerStepFrame s (erStep tailDone s) :=
  erStep_frame tailDone_onlySerFieldsChanged (by simp [hp])

theorem readnStep_frame {s : State} (hp : s.ser.phase = .readn) : SerStepFrame s (erStep readnDone s) :=
  erStep_frame (raiseSer_onlySerFieldsChanged .ok 0) (by simp [hp])

theorem SerStep.frame {s t : State} (h : SerStep s t) : SerStepFrame s t := by
  cases h with
  | scan _ hp => exact scanStep_frame hp
  | header _ hp => exact headerStep_frame hp
  | tail _ hp => exact tailStep_frame hp
  | readn _ _ hp => exact readnStep_frame hp

/-- A busy SER steps only in a phase that waits for bytes (10_state.md R22). -/
theorem SerStep.phase_waits {s t : State} (h : SerStep s t) :
    s.ser.phase = .scan ∨ s.ser.phase = .header ∨ s.ser.phase = .tail ∨ s.ser.phase = .readn := by
  cases h with
  | scan _ hp => exact .inl hp
  | header _ hp => exact .inr (.inl hp)
  | tail _ hp => exact .inr (.inr (.inl hp))
  | readn _ _ hp => exact .inr (.inr (.inr hp))

/-! ## The frame of a SER command -/

/-- `HostWriteCmd(SER, w)` changes the SER engine alone (43_host_access.md R183, R184). -/
theorem issueSer_eq_setSer (w : Word) (init : SerEngine → SerEngine) (s : State) :
    issueSer w init s = s.setSer (issueSer w init s).ser := by
  unfold issueSer
  split
  · rfl
  · split <;> rfl

theorem exec_issue_eq_setSer {i : Instr} {s t : State} (hi : i.engine = .ser) (ht : s.turn = .issue)
    (h : exec i s = .next t) : t = s.setSer t.ser := by
  cases i with
  | serReadn n =>
    rw [exec, execSerReadn_issue n ht] at h
    cases h
    exact issueSer_eq_setSer _ _ s
  | serFrame =>
    rw [exec, execSerFrame_issue ht] at h
    cases h
    exact issueSer_eq_setSer _ _ s
  | busConvertWind | busConvertCur => cases hi

/-- Unlike `SerStep.frame`, this asks nothing of the latched word. -/
theorem exec_engine_frame {i : Instr} {s t : State} {a : Option BusAnswer} (hi : i.engine = .ser)
    (ht : s.turn = .engine a) (h : exec i s = .next t) : SerStepFrame s t := by
  cases i with
  | serReadn n =>
    cases hp : s.ser.phase <;> simp [exec, execSerReadn, ht, hp] at h
    exact h ▸ readnStep_frame hp
  | serFrame =>
    cases hp : s.ser.phase <;> simp [exec, execSerFrame, ht, hp] at h
    · exact h ▸ scanStep_frame hp
    · exact h ▸ headerStep_frame hp
    · exact h ▸ tailStep_frame hp
  | busConvertWind | busConvertCur => cases hi

/-- Settles O52: an issue changes the SER engine alone, and an engine step takes a byte, stores it and updates fields. -/
theorem serCommandFrame : Obligations.SerCommandFrame := by
  intro i s t hi h
  cases ht : s.turn with
  | issue =>
    have heq := exec_issue_eq_setSer hi ht h
    have hqueue : t.rxq = s.rxq := heq ▸ rfl
    have hbuf : t.buf = s.buf := heq ▸ rfl
    exact ⟨heq ▸ (OnlySerChanged.refl s).setSer _, fun _ => ⟨hqueue, fun _ => hbuf ▸ rfl⟩, nofun⟩
  | engine a =>
    have hf := exec_engine_frame hi ht h
    exact ⟨hf.others, nofun, fun _ _ => ⟨hf.cmd, hf.dl, hf.rej, hf.queue, hf.bytes⟩⟩

/-! ## What one move does to the engines, the buffer and the channel -/

/-- The only moves that change the SER engine or the buffer: the write of SER_CMD, a SER step and reset. -/
theorem MoveEffect.ser_buf {m : Move} {s t : State} (he : MoveEffect m s t) :
    (t.ser = s.ser ∧ t.buf = s.buf) ∨
    (∃ w, m = .hostWrite 32 HostReg.serCmd.offset w ∧ t.buf = s.buf) ∨
    (m = .ser ∧ s.ser.st.busy = true ∧ SerStep s t) ∨
    (m = .reset ∧ t = assertReset s) := by
  cases he with
  | serIssue w hm hi => exact .inr (.inl ⟨w, hm, by rw [hi.eq_setSer]; rfl⟩)
  | busIssue _ _ hi =>
    rw [hi.eq_setBus]
    exact .inl ⟨rfl, rfl⟩
  | serStep hm busy hs => exact .inr (.inr (.inl ⟨hm, busy, hs⟩))
  | busStep _ _ _ hs =>
    obtain ⟨hser, -, -, -, hbuf, -⟩ := hs.onlyBusChanged
    exact .inl ⟨hser, hbuf⟩
  | reset hm => exact .inr (.inr (.inr ⟨hm, rfl⟩))
  | hostRead | ignored | deadlineLo | deadlineHi | serIdle | busIdle | clock | rxByte | rxErr => exact .inl ⟨rfl, rfl⟩

/-- The only moves that change the BUS engine: the write of BUS_CMD, a BUS step and reset. -/
theorem MoveEffect.bus_eq {m : Move} {s t : State} (he : MoveEffect m s t) :
    t.bus = s.bus ∨ (∃ w, m = .hostWrite 32 HostReg.busCmd.offset w) ∨ s.bus.st.busy = true ∨ m = .reset := by
  cases he with
  | serIssue _ _ hi => exact .inl (by rw [hi.eq_setSer]; rfl)
  | busIssue w hm => exact .inr (.inl ⟨w, hm⟩)
  | serStep _ _ hs =>
    obtain ⟨hbus, -⟩ := hs.onlySerChanged
    exact .inl hbus
  | busStep _ _ busy => exact .inr (.inr (.inl busy))
  | reset hm => exact .inr (.inr (.inr hm))
  | hostRead | ignored | deadlineLo | deadlineHi | serIdle | busIdle | clock | rxByte | rxErr => exact .inl rfl

/-- The only moves that change the queue: RXCHAN's byte and a SER step (20_memory.md R63, R64). -/
theorem MoveEffect.rxq {m : Move} {s t : State} (he : MoveEffect m s t) :
    t.rxq = s.rxq ∨ (∃ b, m = .rxByte b ∧ t.rxq = s.rxq ++ [b]) ∨
    (m = .ser ∧ s.ser.st.busy = true ∧ SerStep s t) := by
  cases he with
  | serIssue _ _ hi => exact .inl (by rw [hi.eq_setSer]; rfl)
  | busIssue _ _ hi => exact .inl (by rw [hi.eq_setBus]; rfl)
  | serStep hm busy hs => exact .inr (.inr ⟨hm, busy, hs⟩)
  | busStep _ _ _ hs =>
    obtain ⟨-, -, -, -, -, hrxq, -⟩ := hs.onlyBusChanged
    exact .inl hrxq
  | rxByte b hm => exact .inr (.inl ⟨b, hm, rfl⟩)
  | hostRead | ignored | deadlineLo | deadlineHi | serIdle | busIdle | clock | rxErr | reset => exact .inl rfl

/-- The only move that changes the error condition is RXCHAN's own (20_memory.md R65). -/
theorem MoveEffect.rxErr_eq {m : Move} {s t : State} (he : MoveEffect m s t) :
    t.rxErr = s.rxErr ∨ m = .rxErr t.rxErr := by
  cases he with
  | serIssue _ _ hi => exact .inl (by rw [hi.eq_setSer]; rfl)
  | busIssue _ _ hi => exact .inl (by rw [hi.eq_setBus]; rfl)
  | serStep _ _ hs =>
    obtain ⟨-, -, -, -, -, hrxErr, -⟩ := hs.onlySerChanged
    exact .inl hrxErr
  | busStep _ _ _ hs =>
    obtain ⟨-, -, -, -, -, -, hrxErr, -⟩ := hs.onlyBusChanged
    exact .inl hrxErr
  | rxErr e hm => exact .inr hm
  | hostRead | ignored | deadlineLo | deadlineHi | serIdle | busIdle | clock | rxByte | reset => exact .inl rfl

/-! ## The frame buffer over a step -/

/-- Settles O13: a SER step stores inside the buffer, reset empties the list of written bytes, and no other move touches
it. -/
theorem stepKeepsBufferForm : Obligations.StepKeepsBufferForm := by
  intro s t hwf hstep
  rw [← takeMove_buf s] at hwf
  rcases (step_effect hstep).ser_buf with ⟨_, hbuf⟩ | ⟨_, _, hbuf⟩ | ⟨_, _, hs⟩ | ⟨_, rfl⟩
  · exact hbuf ▸ hwf
  · exact hbuf ▸ hwf
  · exact hs.wf hwf
  · exact Memory.wf_nil

/-- Settles O56: of all moves but reset only a SER step touches the buffer, at its own index. -/
theorem onlySerWritesBuffer : Obligations.OnlySerWritesBuffer := by
  intro s t hstep hreset j hne
  rw [← takeMove_buf s] at hne
  rcases (step_effect hstep).ser_buf with ⟨_, hbuf⟩ | ⟨_, _, hbuf⟩ | ⟨hm, hb, hs⟩ | ⟨hm, _⟩
  · exact absurd (hbuf ▸ rfl) hne
  · exact absurd (hbuf ▸ rfl) hne
  · have hj : j = serStoreIndex (takeMove s) := by
      by_contra hj
      exact hne (hs.frame.bytes j hj)
    exact ⟨hm, by simpa using hb, by simpa [serStoreIndex] using hj⟩
  · exact absurd hm hreset

/-- Settles O28: every move that changes an engine is that engine's own step, its CMD register's write or reset, and an
idle engine takes no step. -/
theorem resultsStayUntilNextCommand : Obligations.ResultsStayUntilNextCommand := by
  intro s t hstep hreset
  have he := step_effect hstep
  refine ⟨fun hidle hw => ?_, fun hidle hw => ?_⟩
  · rcases he.ser_buf with ⟨hser, hbuf⟩ | ⟨w, hm, _⟩ | ⟨_, hb, _⟩ | ⟨hm, _⟩
    · exact ⟨by simpa using hser, fun i => by simp [hbuf]⟩
    · exact absurd hm (hw w)
    · simp [hidle] at hb
    · exact absurd hm hreset
  · rcases he.bus_eq with hbus | ⟨w, hm⟩ | hb | hm
    · simpa using hbus
    · exact absurd hm (hw w)
    · simp [hidle] at hb
    · exact absurd hm hreset

/-! ## The serial channel over a step -/

/-- Settles O55: of all moves only RXCHAN's and SER's steps touch the channel. -/
theorem channelBytesTakenInOrder : Obligations.ChannelBytesTakenInOrder := by
  intro s t hstep
  have he := step_effect hstep
  refine ⟨?_, by simpa using he.rxErr_eq, fun b hm => ?_, fun e hm => ?_⟩
  · rcases he.rxq with hq | ⟨b, hm, hq⟩ | ⟨hm, hb, hs⟩
    · exact .inl (by simpa using hq)
    · exact .inr (.inl ⟨b, hm, by simpa using hq⟩)
    · have hphase := hs.phase_waits
      rcases hs.frame.queue with hq | hq
      · exact .inl (by simpa using hq)
      · exact .inr (.inr ⟨hm, by simpa using hb, by simpa using hphase, by simpa using hq⟩)
  · rw [step_of_nextMove hm] at hstep
    cases hstep
    simp
  · rw [step_of_nextMove hm] at hstep
    cases hstep
    rfl

/-! ## No fault -/

/-- A running SER's latched word is a command with a meaning in its phase. -/
theorem SerRunning.exec_next {s : State} {a : Option BusAnswer} (h : SerRunning s.ser s.buf) (ht : s.turn = .engine a) :
    ∃ i t, decode .ser s.ser.cmd = .ok i ∧ exec i s = .next t := by
  cases hp : s.ser.phase <;> simp only [SerRunning, hp] at h
  case scan =>
    obtain ⟨hd, -⟩ := h
    exact ⟨_, _, hd, execSerFrame_scan ht hp⟩
  case header =>
    obtain ⟨⟨hd, -⟩, -⟩ := h
    exact ⟨_, _, hd, execSerFrame_header ht hp⟩
  case tail =>
    obtain ⟨⟨hd, -⟩, -⟩ := h
    exact ⟨_, _, hd, execSerFrame_tail ht hp⟩
  case readn =>
    obtain ⟨⟨hd, -⟩, -⟩ := h
    exact ⟨_, _, hd, execSerReadn_engine _ ht hp⟩

/-- A conversion's engine step has a meaning in SELECT and POLL (42_conversion_poller.md R160). -/
theorem convertStep_next {s : State} (a : Option BusAnswer) (hp : s.bus.phase ≠ .idle) :
    ∃ t, convertStep a s = .next t := by
  cases h : s.bus.phase with
  | idle => exact absurd h hp
  | select => exact ⟨_, by rw [convertStep, h]⟩
  | poll => exact ⟨_, by rw [convertStep, h]⟩

/-- A BUS word's engine step is a conversion's, whichever of the two it is. -/
theorem exec_eq_convertStep {s : State} {i : Instr} {a : Option BusAnswer} (ht : s.turn = .engine a)
    (hd : decode .bus s.bus.cmd = .ok i) : exec i s = convertStep a s := by
  rcases decodeBus_ok hd with rfl | rfl
  · exact execBusConvertWind_engine _ ht
  · exact execBusConvertCur_engine _ ht

theorem BusRunning.decode_ok {e : BusEngine} (h : BusRunning e) :
    e.phase ≠ .idle ∧ ∃ i, decode .bus e.cmd = .ok i := by
  have hcmd : ConvertFacts e → ∃ i, decode .bus e.cmd = .ok i := by
    rintro (⟨hd, -⟩ | ⟨hd, -⟩) <;> exact ⟨_, hd⟩
  cases hp : e.phase <;> simp only [BusRunning, hp] at h
  case select =>
    obtain ⟨hfacts, -⟩ := h
    exact ⟨nofun, hcmd hfacts⟩
  case poll =>
    obtain ⟨hfacts, -⟩ := h
    exact ⟨nofun, hcmd hfacts⟩

theorem serMove_next {s : State} {a : Option BusAnswer} (h : SerInv s.ser s.buf) (ht : s.turn = .engine a) :
    ∃ t, serMove s = .next t := by
  cases hb : s.ser.st.busy with
  | false => exact ⟨s, by simp [serMove, hb]⟩
  | true =>
    obtain ⟨-, -, -, hrun⟩ := (SerInv_running hb).1 h
    obtain ⟨i, t, hd, hexec⟩ := hrun.exec_next ht
    exact ⟨t, by simp [serMove, hb, hd, hexec]⟩

theorem busMove_next {s : State} {a : Option BusAnswer} (h : BusInv s.bus) (ht : s.turn = .engine a) :
    ∃ t, busMove s = .next t := by
  cases hb : s.bus.st.busy with
  | false => exact ⟨s, by simp [busMove, hb]⟩
  | true =>
    obtain ⟨-, -, -, hrun⟩ := (BusInv_running hb).1 h
    obtain ⟨hp, i, hd⟩ := hrun.decode_ok
    obtain ⟨t, hconv⟩ := convertStep_next a hp
    exact ⟨t, by simp [busMove, hb, hd, exec_eq_convertStep ht hd, hconv]⟩

/-- Every aligned HOST write has a meaning (20_memory.md R72, 43_host_access.md R185). -/
theorem hostWrite_next {s : State} (off : Offset) (v : Word) (ht : s.turn = .issue) :
    ∃ t, hostWrite off v s = .next t := by
  cases hr : regAt off with
  | none => exact ⟨s, by rw [hostWrite, hr]⟩
  | some r =>
    cases r <;> simp only [hostWrite, hr]
    case serCmd => exact (hostWriteCmd_ser v ht).imp fun _ h => h.1
    case busCmd => exact (hostWriteCmd_bus v ht).imp fun _ h => h.1
    all_goals exact ⟨_, rfl⟩

/-- A HOST access adds no fault to what it performs: it refuses (43_host_access.md R186). -/
theorem hostAccess_ne_fault {bits : Nat} {off : Offset} {access : Host.Outcome State Fault Refusal}
    (h : ∃ t, access = .next t) (f : Fault) : hostAccess bits off access ≠ .fault f := by
  obtain ⟨t, rfl⟩ := h
  unfold hostAccess
  split
  · nofun
  · split <;> nofun

/-- No agent's move faults where the engines are consistent. -/
theorem makeMove_ne_fault {m : Move} {s : State} (h : Inv s) (ht : s.turn = m.turn) (f : Fault) :
    makeMove m s ≠ .fault f := by
  cases m with
  | hostRead => exact hostAccess_ne_fault ⟨_, rfl⟩ f
  | hostWrite bits off v => exact hostAccess_ne_fault (hostWrite_next off v ht) f
  | ser =>
    obtain ⟨t, e⟩ := serMove_next h.ser ht
    simp [makeMove, e]
  | bus =>
    obtain ⟨t, e⟩ := busMove_next h.bus ht
    simp [makeMove, e]
  | clock | rxByte | rxErr | reset => nofun

/-- Settles O14: a running engine's latched word is a command of its phase, so its step has a meaning. -/
theorem noStepFaults : Obligations.NoStepFaults :=
  fun s h f => makeMove_ne_fault h.takeMove (takeMove_turn s) f

/-! ## Runs without an answer from BUSDEV -/

/-- A run of `k + 1` steps is its first step and a run of `k`. -/
theorem coreRun_succ {M : Host.Core} {s u : M.State} (k : Nat) (h : M.step s = .next u) :
    M.run (k + 1) s = M.run k u := by
  simp [Host.Core.run, h]

/-- A run makes its first move and then the others from the state that move leaves. -/
theorem runMoves_cons {m : Move} {ms : List Move} {s u : State}
    (h : makeMove m { s with pending := ms ++ s.pending, turn := m.turn } = .next (u.place ms)) :
    runMoves (m :: ms) s = runMoves ms u :=
  coreRun_succ (M := core) ms.length ((step_placed rfl).trans h)

/-- A conversion whose transaction is not completed waits (20_memory.md R66). -/
theorem convertStep_none {s : State} (hp : s.bus.phase ≠ .idle) : convertStep none s = .next s := by
  cases h : s.bus.phase with
  | idle => exact absurd h hp
  | select => rw [convertStep, h, selectStep]
  | poll => rw [convertStep, h, pollStep]

theorem busMove_none {s : State} {i : Instr} (ht : s.turn = .engine none) (hb : s.bus.st.busy = true)
    (hp : s.bus.phase ≠ .idle) (hd : decode .bus s.bus.cmd = .ok i) : busMove s = .next s := by
  simp [busMove, hb, hd, exec_eq_convertStep ht hd, convertStep_none hp]

theorem runMoves_busNone_cons {s : State} {i : Instr} (ms : List Move) (hb : s.bus.st.busy = true)
    (hp : s.bus.phase ≠ .idle) (hd : decode .bus s.bus.cmd = .ok i) :
    runMoves (.bus none :: ms) s = runMoves ms { s with turn := .engine none } :=
  runMoves_cons (busMove_none rfl hb hp hd)

/-- Settles O50: every BUS step without an answer is a wait, by induction on their number. -/
theorem stalledBusStaysBusy : Obligations.StalledBusStaysBusy := by
  intro s i k hb hp hd
  induction k generalizing s with
  | zero => exact runMoves_busNone_cons [] hb hp hd
  | succ k ih =>
    rw [List.replicate_succ, runMoves_busNone_cons _ hb hp hd]
    exact ih { s with turn := .engine none } hb hp hd

end Sys2Proof.Machine

/-! # Proofs: the encoding of commands, the assembler and the issue of a placed word (30_encoding.md) -/

namespace Sys2Proof

open Sys2Proof.Machine

/-! ## The fields of a word made of two halves -/

/-- A word made of two halves is the one word with these halves. -/
theorem append_halves_eq_iff (hi lo : Half) (w : Word) :
    (hi ++ lo : Word) = w ↔ w.extractLsb' 0 16 = lo ∧ w.extractLsb' 16 16 = hi := by
  constructor
  · rintro rfl
    exact Laws.TableMatch.halves (append_toNat hi lo)
  · rintro ⟨rfl, rfl⟩
    apply BitVec.eq_of_toNat_eq
    have hw := w.isLt
    rw [append_toNat, field_toNat, field_toNat]
    omega

/-- The fields within bits 15:0 of a word are those of its low half, and bits 31:16 are its high half
(30_encoding.md R81, R82). -/
theorem opField_append (hi lo : Half) : opField (hi ++ lo) = lo.extractLsb' 0 4 :=
  BitVec.extractLsb'_append_eq_of_add_le (by decide)

theorem serRsvdField_append (hi lo : Half) : serRsvdField (hi ++ lo) = lo.extractLsb' 4 12 :=
  BitVec.extractLsb'_append_eq_of_add_le (by decide)

theorem busRsvdField_append (hi lo : Half) : busRsvdField (hi ++ lo) = lo.extractLsb' 4 4 :=
  BitVec.extractLsb'_append_eq_of_add_le (by decide)

theorem selField_append (hi lo : Half) : selField (hi ++ lo) = lo.extractLsb' 8 8 :=
  BitVec.extractLsb'_append_eq_of_add_le (by decide)

theorem argField_append (hi lo : Half) : argField (hi ++ lo) = hi :=
  (Laws.TableMatch.halves (append_toNat hi lo)).2

/-! ## The round trip -/

/-- Every N is the operand of a legal word (30_encoding.md R84). -/
theorem decode_encode_serReadn (n : Half) : decode .ser (encode (.serReadn n)) = .ok (.serReadn n) := by
  have hop : opField (encode (.serReadn n)) = 1 := opField_append n 0x0001
  have hrsvd : serRsvdField (encode (.serReadn n)) = 0 := serRsvdField_append n 0x0001
  have harg : argField (encode (.serReadn n)) = n := argField_append n 0x0001
  simp [decode, decodeSer, hop, hrsvd, harg]

/-- A BUS word with a selector and a MAXR other than 0 passes every check but the selector's (30_encoding.md R85,
R86). -/
theorem decode_bus_append {maxr : Half} (sel : Byte) (h : maxr ≠ 0) :
    decode .bus (maxr ++ (sel ++ (0x01 : Byte))) =
      if sel = Config.selWind then .ok (.busConvertWind maxr)
      else if sel = Config.selCur then .ok (.busConvertCur maxr)
      else .error .argument := by
  have hlow {start len : Nat} (hl : start + len ≤ 8) :
      (sel ++ (0x01 : Byte)).extractLsb' start len = (0x01 : Byte).extractLsb' start len :=
    BitVec.extractLsb'_append_eq_of_add_le hl
  have hop : opField (maxr ++ (sel ++ (0x01 : Byte))) = 1 := (opField_append _ _).trans (hlow (by decide))
  have hrsvd : busRsvdField (maxr ++ (sel ++ (0x01 : Byte))) = 0 := (busRsvdField_append _ _).trans (hlow (by decide))
  have hsel : selField (maxr ++ (sel ++ (0x01 : Byte))) = sel :=
    (selField_append _ _).trans BitVec.extractLsb'_append_eq_left
  have harg : argField (maxr ++ (sel ++ (0x01 : Byte))) = maxr := argField_append _ _
  simp only [decode, decodeBus, hop, hrsvd, hsel, harg, h, ne_eq, not_true_eq_false, if_false]

/-- Settles O2: each command's fields are read back where its encoding puts them. -/
theorem decodeEncodeRoundTrip : Obligations.DecodeEncodeRoundTrip := by
  intro i hwf
  cases i with
  | serReadn n => exact decode_encode_serReadn n
  | serFrame => decide
  | busConvertWind maxr => exact decode_bus_append Config.selWind (bne_iff_ne.1 hwf)
  | busConvertCur maxr => exact decode_bus_append Config.selCur (bne_iff_ne.1 hwf)

/-- A word that decodes for SER is a well-formed SER command. -/
theorem wellFormed_engine_of_decode_ser {w : Word} {i : Instr} (h : decode .ser w = .ok i) :
    i.WellFormed ∧ i.engine = .ser := by
  rcases decodeSer_ok h with rfl | rfl <;> exact ⟨rfl, rfl⟩

/-- A word that decodes for BUS is a well-formed BUS command: MAXR = 0 is refused (30_encoding.md R86). -/
theorem wellFormed_engine_of_decode_bus {w : Word} {i : Instr} (h : decode .bus w = .ok i) :
    i.WellFormed ∧ i.engine = .bus := by
  rcases decodeBus_cases w with ⟨_, _, harg, _, e⟩ | ⟨_, _, harg, _, e⟩ | ⟨_, e⟩ <;> rw [e] at h <;> cases h
  · exact ⟨bne_iff_ne.2 harg, rfl⟩
  · exact ⟨bne_iff_ne.2 harg, rfl⟩

/-- Settles O3: each engine's rows fix every bit of the word, so encoding the command gives the word again. -/
theorem decodedWordIsItsEncoding : Obligations.DecodedWordIsItsEncoding := by
  intro e w i h
  cases e with
  | ser => exact ⟨encode_of_decode_ser h, wellFormed_engine_of_decode_ser h⟩
  | bus => exact ⟨encode_of_decode_bus h, wellFormed_engine_of_decode_bus h⟩

/-- The decoder and the encoder agree: the words that decode on an engine are those of its well-formed commands. -/
theorem decode_eq_ok_iff {e : Engine} {w : Word} {i : Instr} :
    decode e w = .ok i ↔ encode i = w ∧ i.WellFormed ∧ i.engine = e := by
  refine ⟨decodedWordIsItsEncoding e w i, ?_⟩
  rintro ⟨rfl, hwf, rfl⟩
  exact decodeEncodeRoundTrip i hwf

/-- The words of each constructor, by their halves (30_encoding.md R84, R85, R95). -/
theorem encode_serReadn_eq_iff (n : Half) (w : Word) :
    encode (.serReadn n) = w ↔ w.extractLsb' 0 16 = 0x0001 ∧ w.extractLsb' 16 16 = n :=
  append_halves_eq_iff n 0x0001 w

theorem encode_serFrame_eq_iff (w : Word) :
    encode .serFrame = w ↔ w.extractLsb' 0 16 = 0x0002 ∧ w.extractLsb' 16 16 = (0 : Half) :=
  append_halves_eq_iff 0 0x0002 w

theorem encode_busConvertWind_eq_iff (maxr : Half) (w : Word) :
    encode (.busConvertWind maxr) = w ↔ w.extractLsb' 0 16 = 0x8801 ∧ w.extractLsb' 16 16 = maxr :=
  append_halves_eq_iff maxr 0x8801 w

theorem encode_busConvertCur_eq_iff (maxr : Half) (w : Word) :
    encode (.busConvertCur maxr) = w ↔ w.extractLsb' 0 16 = 0xA801 ∧ w.extractLsb' 16 16 = maxr :=
  append_halves_eq_iff maxr 0xA801 w

/-- Settles O4: a word decodes to a command exactly when it is that command's word, whose halves are the row's. -/
theorem opcodeMap : Obligations.OpcodeMap := by
  intro w n
  refine ⟨?_, ?_, ?_, ?_⟩ <;> rw [decode_eq_ok_iff]
  · simp [encode_serReadn_eq_iff, Instr.WellFormed, Instr.wellFormed, Instr.engine]
  · simp [encode_serFrame_eq_iff, Instr.WellFormed, Instr.wellFormed, Instr.engine]
  · simp [encode_busConvertWind_eq_iff, Instr.WellFormed, Instr.wellFormed, Instr.engine, and_assoc]
  · simp [encode_busConvertCur_eq_iff, Instr.WellFormed, Instr.wellFormed, Instr.engine, and_assoc]

/-! ## The engine of a word -/

/-- Bits 15:8 of a BUS command's word are a selector and those of a SER command's are 0 (30_encoding.md R84, R85). -/
theorem rowEngine_encode (i : Instr) : rowEngine (encode i) = i.engine := by
  cases i with
  | serReadn n =>
    have hsel : selField (encode (.serReadn n)) = 0 := selField_append n 0x0001
    simp [rowEngine, hsel, Config.selWind, Config.selCur, Instr.engine]
  | serFrame => decide
  | busConvertWind maxr => exact if_pos (.inl (selField_append maxr 0x8801))
  | busConvertCur maxr => exact if_pos (.inr (selField_append maxr 0xA801))

/-- Settles O5: a word that decodes is a command's word, and that command has one engine. -/
theorem legalWordsHaveOneEngine : Obligations.LegalWordsHaveOneEngine := by
  intro e w i h
  obtain ⟨rfl, -, rfl⟩ := decode_eq_ok_iff.1 h
  exact rowEngine_encode i

/-- Settles O1: five words of 95_test_vectors.md, decoded. -/
theorem sampleWordsDecode : Obligations.SampleWordsDecode := by
  unfold Obligations.SampleWordsDecode
  decide

/-! ## A command's word as a table word, placed and issued -/

/-- A command's word fits a table row of 32 bits (30_encoding.md R88). -/
theorem tableWord_toNat (w : Word) : tableWord 32 w.toNat = some w := by
  simp [tableWord, Nat.mod_eq_of_lt w.isLt, w.isLt]

theorem decodeTableWord_encode {i : Instr} (h : i.WellFormed) : decodeTableWord 32 (encode i).toNat = some i := by
  simp [decodeTableWord, tableWord_toNat, rowEngine_encode, decodeEncodeRoundTrip i h]

/-- A word written to an engine's CMD register goes to that engine (30_encoding.md R80). -/
theorem hostWrite_cmdReg (e : Engine) (w : Word) (s : State) :
    hostWrite (cmdReg e).offset w s = hostWriteCmd e w s := by
  cases e <;> simp [hostWrite, regAt_offset, cmdReg]

/-- The step after a word is placed is the host's write of it, in the state it was placed in. -/
theorem step_placeWord (w : Word) (s : State) :
    step (placeWord w s) = hostWriteCmd (rowEngine w) w { s with turn := .issue } := by
  rw [step_placed (s := placeWord w s) rfl, makeMove_hostWrite_reg, hostWrite_cmdReg]
  rfl

theorem hostWriteCmd_encode {i : Instr} (h : i.WellFormed) (s : State) :
    hostWriteCmd i.engine (encode i) s = exec i s := by
  rw [hostWriteCmd, decodeEncodeRoundTrip i h]

/-- Settles O8: the placed word goes to its command's engine, which decodes it to the command. -/
theorem fetchWordIsIssuedNext : Obligations.FetchWordIsIssuedNext := by
  intro i s h
  refine ⟨decodeTableWord_encode h, ?_⟩
  rw [State.withFetchWord, tableWord_toNat]
  calc step (placeWord (encode i) s)
      = hostWriteCmd (rowEngine (encode i)) (encode i) { s with turn := .issue } := step_placeWord _ _
    _ = exec i { s with turn := .issue } := by rw [rowEngine_encode, hostWriteCmd_encode h]

/-! ## The assembler -/

/-- A word whose high half is an operand of 16 bits, as the number that `(N << 16) | low` is (30_encoding.md R95). -/
theorem eq_ofNat_of_operand {w : Word} {n low : Nat} (hn : n ≤ 65535)
    (h : w.toNat = (BitVec.ofNat 16 n).toNat * 65536 + low) : w = BitVec.ofNat 32 (n * 65536 + low) := by
  rw [BitVec.toNat_ofNat, Nat.mod_eq_of_lt (by omega)] at h
  rw [← h, BitVec.ofNat_toNat, BitVec.setWidth_eq]

/-- A mnemonic that refuses every operand of more than 16 bits makes that number, or nothing. -/
theorem asm_operand_eq {range : Prop} [Decidable range] {w : Word} {n low : Nat} (hn : range → n ≤ 65535)
    (h : w.toNat = (BitVec.ofNat 16 n).toNat * 65536 + low) :
    (if range then some w else none) = if range then some (BitVec.ofNat 32 (n * 65536 + low)) else none := by
  split
  · next hrange => rw [eq_ofNat_of_operand (hn hrange) h]
  · rfl

theorem asmReadn_eq (n : Nat) :
    asmReadn n = if n ≤ 65535 then some (BitVec.ofNat 32 (n * 65536 + 0x0001)) else none :=
  asm_operand_eq id (encode_serReadn_toNat _)

theorem asmConvertWind_eq (m : Nat) :
    asmConvertWind m = if 1 ≤ m ∧ m ≤ 65535 then some (BitVec.ofNat 32 (m * 65536 + 0x8801)) else none :=
  asm_operand_eq And.right (encode_busConvertWind_toNat _)

theorem asmConvertCur_eq (m : Nat) :
    asmConvertCur m = if 1 ≤ m ∧ m ≤ 65535 then some (BitVec.ofNat 32 (m * 65536 + 0xA801)) else none :=
  asm_operand_eq And.right (encode_busConvertCur_toNat _)

/-- `bus.convert SEL, MAXR` is the row of its selector, and there is no third one (30_encoding.md R95). -/
theorem asmConvert_eq (sel : Byte) (m : Nat) :
    asmConvert sel m =
      if (sel = 0x88 ∨ sel = 0xA8) ∧ 1 ≤ m ∧ m ≤ 65535 then
        some (BitVec.ofNat 32 (m * 65536 + sel.toNat * 256 + 0x01)) else none := by
  by_cases hwind : sel = Config.selWind
  · subst hwind
    exact (asmConvertWind_eq m).trans (by simp [Config.selWind, Nat.add_assoc])
  by_cases hcur : sel = Config.selCur
  · subst hcur
    exact (asmConvertCur_eq m).trans (by simp [Config.selCur, Nat.add_assoc])
  · rw [asmConvert, if_neg hwind, if_neg hcur, if_neg fun h => h.1.elim hwind hcur]

/-- Settles O6: each mnemonic's word is its command's encoding, read as a number. -/
theorem assemblerWords : Obligations.AssemblerWords :=
  ⟨asmReadn_eq, rfl, asmConvertWind_eq, asmConvertCur_eq, asmConvert_eq⟩

end Sys2Proof

/-! # Proofs: the faults of an engine step that its command does not have (93_implementation_defined.md U6) -/

namespace Sys2Proof.Machine

open Sys2Proof

/-- `ser.readn` has no engine step outside READN. -/
theorem execSerReadn_fault {s : State} {a : Option BusAnswer} (n : Half) (ht : s.turn = .engine a)
    (hp : s.ser.phase ≠ .readn) : execSerReadn n s = .fault (.phaseNotOfCommand .ser) := by
  cases h : s.ser.phase with
  | readn => exact absurd h hp
  | idle | scan | header | tail | check => simp [execSerReadn, ht, h]

/-- `ser.frame` has no engine step in IDLE, CHECK or READN. -/
theorem execSerFrame_fault {s : State} {a : Option BusAnswer} (ht : s.turn = .engine a)
    (hp : s.ser.phase = .idle ∨ s.ser.phase = .check ∨ s.ser.phase = .readn) :
    execSerFrame s = .fault (.phaseNotOfCommand .ser) := by
  rcases hp with h | h | h <;> simp [execSerFrame, ht, h]

/-- A conversion has no engine step in IDLE. -/
theorem convertStep_fault {s : State} (a : Option BusAnswer) (hp : s.bus.phase = .idle) :
    convertStep a s = .fault (.phaseNotOfCommand .bus) := by
  rw [convertStep, hp]

theorem serMove_fault {s : State} {d : CmdError} (hb : s.ser.st.busy = true) (hd : decode .ser s.ser.cmd = .error d) :
    serMove s = .fault (.wordNotCommand .ser) := by
  simp [serMove, hb, hd]

theorem busMove_fault {s : State} {d : CmdError} (hb : s.bus.st.busy = true) (hd : decode .bus s.bus.cmd = .error d) :
    busMove s = .fault (.wordNotCommand .bus) := by
  simp [busMove, hb, hd]

/-- Settles O60: each phase outside the command's own, and each latched word that is no command, has its fault. -/
theorem impossiblePhaseFaults : Obligations.ImpossiblePhaseFaults := by
  refine ⟨fun n s a ht hp => execSerReadn_fault n ht hp, fun s a ht hp => execSerFrame_fault ht hp,
    fun m s a ht hp => ⟨?_, ?_⟩, fun s d hm hb hd => ?_, fun s a d hm hb hd => ?_⟩
  · exact (execBusConvertWind_engine m ht).trans (convertStep_fault a hp)
  · exact (execBusConvertCur_engine m ht).trans (convertStep_fault a hp)
  · exact (step_of_nextMove hm).trans (serMove_fault (by simpa using hb) (by simpa using hd))
  · exact (step_of_nextMove hm).trans (busMove_fault (by simpa using hb) (by simpa using hd))

end Sys2Proof.Machine

/-! # Proofs: the Exact Reader and `ser.readn` (40_exact_reader.md) -/

namespace Sys2Proof.Machine

open Sys2Proof

/-! ## The deadline -/

/-- The deadline is compared unsigned (60_exceptions.md R201). -/
theorem deadlineReached_eq_true_iff {s : State} : deadlineReached s = true ↔ s.ser.dl.toNat ≤ s.now.toNat := by
  rw [deadlineReached, decide_eq_true_iff, BitVec.le_def]

theorem deadlineReached_eq_false_iff {s : State} : deadlineReached s = false ↔ s.now.toNat < s.ser.dl.toNat := by
  rw [← Bool.not_eq_true, deadlineReached_eq_true_iff, Nat.not_le]

theorem InTime.deadlineReached {s : State} (h : InTime s) : deadlineReached s = false :=
  deadlineReached_eq_false_iff.2 (BitVec.lt_def.1 h.1)

theorem inTime_iff {s : State} : InTime s ↔ s.now.toNat < s.ser.dl.toNat ∧ s.rxErr = false := by
  rw [InTime, BitVec.lt_def]

/-! ## A byte stored -/

/-- The bytes that enter the running Checksum8 (40_exact_reader.md R112). -/
theorem sumCovers_eq_true_iff {e : SerEngine} :
    sumCovers e = true ↔
      e.phase = .readn ∨ e.phase = .header ∨ (e.phase = .tail ∧ e.total.toNat + 2 ≤ e.size.toNat) := by
  cases hp : e.phase <;> simp [sumCovers, hp]

theorem erStore_ser_summed {s : State} (b : Byte) (h : sumCovers s.ser = true) :
    (erStore b s).ser =
      { s.ser with sum := s.ser.sum + b, total := s.ser.total + 1, cnt := s.ser.cnt + 1 } := by
  rw [erStore_ser, if_pos h]

/-- The terminator stays out of the sum. -/
theorem erStore_ser_not_summed {s : State} (b : Byte) (h : sumCovers s.ser = false) :
    (erStore b s).ser = { s.ser with total := s.ser.total + 1, cnt := s.ser.cnt + 1 } := by
  rw [erStore_ser, if_neg (by simp [h])]

/-- Settles O30: the phase and the index say whether a stored byte is summed. -/
theorem byteIsStoredAndCounted : Obligations.ByteIsStoredAndCounted := by
  refine fun b s => ⟨by simp, fun i hi => FrameBuf.byte_memWrite_other _ b hi,
    fun h => erStore_ser_summed b (sumCovers_eq_true_iff.2 h),
    fun hp hlast => erStore_ser_not_summed b ?_, rfl, (OnlySerChanged.refl s).erStore b⟩
  simp [sumCovers, hp, hlast]

/-! ## A string of bytes stored -/

/-- The bytes `l` stored one after the other. -/
def erStoreAll (l : List Byte) (s : State) : State := l.foldl (fun s b => erStore b s) s

@[simp] theorem erStoreAll_nil (s : State) : erStoreAll [] s = s := rfl

@[simp] theorem erStoreAll_cons (b : Byte) (l : List Byte) (s : State) :
    erStoreAll (b :: l) s = erStoreAll l (erStore b s) := rfl

theorem erStoreAll_onlySerChanged (l : List Byte) (s : State) : OnlySerChanged s (erStoreAll l s) := by
  suffices h : ∀ t, OnlySerChanged s t → OnlySerChanged s (erStoreAll l t) from h s (.refl s)
  induction l with
  | nil => exact fun _ h => h
  | cons b l ih => exact fun t h => ih _ (h.erStore b)

@[simp] theorem erStoreAll_rxq (l : List Byte) (s : State) : (erStoreAll l s).rxq = s.rxq := by
  induction l generalizing s with
  | nil => rfl
  | cons b l ih => exact ih (erStore b s)

/-- In READN and HEADER every byte of the string is counted and summed. -/
theorem erStoreAll_ser {s : State} (l : List Byte) (hp : s.ser.phase = .readn ∨ s.ser.phase = .header) :
    (erStoreAll l s).ser =
      { s.ser with
        sum := s.ser.sum + checksum8 l
        total := s.ser.total + BitVec.ofNat 16 l.length, cnt := s.ser.cnt + BitVec.ofNat 16 l.length } := by
  induction l generalizing s with
  | nil => simp [checksum8]
  | cons b l ih =>
    have hsum : sumCovers s.ser = true := sumCovers_eq_true_iff.2 (hp.imp id .inl)
    have hlen : BitVec.ofNat 16 (b :: l).length = 1 + BitVec.ofNat 16 l.length := by
      rw [List.length_cons, Nat.add_comm, BitVec.ofNat_add]
      rfl
    rw [erStoreAll_cons, ih (s := erStore b s) hp, erStore_ser_summed b hsum, hlen]
    simp only [checksum8, BitVec.add_assoc]

/-- `ser.total` counts up without wrapping while it stays below 2^16. -/
theorem erStore_total_toNat {s : State} (b : Byte) (h : s.ser.total.toNat + 1 < 2 ^ 16) :
    (erStore b s).ser.total.toNat = s.ser.total.toNat + 1 := by
  rw [erStore_ser, BitVec.toNat_add]
  exact Nat.mod_eq_of_lt h

/-- Storing a string leaves every byte outside its own indices. -/
theorem erStoreAll_byte_other {s : State} {l : List Byte} {j : Nat} (hlen : s.ser.total.toNat + l.length < 2 ^ 16)
    (hj : j < s.ser.total.toNat ∨ s.ser.total.toNat + l.length ≤ j) :
    (erStoreAll l s).buf.byte j = s.buf.byte j := by
  induction l generalizing s with
  | nil => rfl
  | cons b l ih =>
    rw [List.length_cons] at hlen hj
    have htotal := erStore_total_toNat (s := s) b (by omega)
    rw [erStoreAll_cons, ih (s := erStore b s) (by omega) (by omega)]
    exact FrameBuf.byte_memWrite_other _ b (by omega)

/-- A stored string stands in the buffer from `ser.total` on, in its order. -/
theorem erStoreAll_byte_stored {s : State} {l : List Byte} {i : Nat} (hlen : s.ser.total.toNat + l.length < 2 ^ 16)
    (hi : i < l.length) : l[i]? = some ((erStoreAll l s).buf.byte (s.ser.total.toNat + i)) := by
  induction l generalizing s i with
  | nil => cases hi
  | cons b l ih =>
    rw [List.length_cons] at hlen hi
    have htotal := erStore_total_toNat (s := s) b (by omega)
    rw [erStoreAll_cons]
    cases i with
    | zero => rw [erStoreAll_byte_other (s := erStore b s) (by omega) (by omega)]; simp
    | succ i =>
      rw [List.getElem?_cons_succ, ih (s := erStore b s) (by omega) (by omega), htotal, Nat.add_assoc,
        Nat.add_comm 1 i]

/-! ## The Exact Reader step, test by test -/

section
variable {done : State → State} {s : State}

theorem erStep_of_complete (h : s.ser.cnt = s.ser.need) : erStep done s = done s := if_pos h

theorem erStep_of_deadline (h : s.ser.cnt ≠ s.ser.need) (hd : deadlineReached s = true) :
    erStep done s = raiseSer .timeout 0 s := by
  rw [erStep, if_neg h, if_pos hd]

theorem erStep_of_rxErr (h : s.ser.cnt ≠ s.ser.need) (hd : deadlineReached s = false) (he : s.rxErr = true) :
    erStep done s = raiseSer .ioError 0 s := by
  simp [erStep, h, hd, he]

theorem erStep_of_empty (h : s.ser.cnt ≠ s.ser.need) (hin : InTime s) (hq : s.rxq = []) : erStep done s = s := by
  simp [erStep, h, hin.deadlineReached, hin.2, rxTake_nil hq]

theorem erStep_of_cons {b : Byte} {rest : List Byte} (h : s.ser.cnt ≠ s.ser.need) (hin : InTime s)
    (hq : s.rxq = b :: rest) :
    erStep done s =
      if s.ser.cnt + 1 = s.ser.need then done (erStore b (s.setRxq rest)) else erStore b (s.setRxq rest) := by
  simp only [erStep, if_neg h, hin.deadlineReached, hin.2, rxTake_cons hq, Bool.false_eq_true, if_false]
  rfl

end

/-- A command, a phase of it in which its engine steps are Exact Reader steps, and that phase's completion action
(40_exact_reader.md R111). -/
inductive ErPhase : Instr → SerPhase → (State → State) → Prop where
  | readn (n : Half) : ErPhase (.serReadn n) .readn readnDone
  | header : ErPhase .serFrame .header headerDone
  | tail : ErPhase .serFrame .tail tailDone

/-- The completion actions do not see which moves are to come. -/
theorem ErPhase.done_place {i : Instr} {p : SerPhase} {done : State → State} (h : ErPhase i p done) (ms : List Move)
    (s : State) : done (s.place ms) = (done s).place ms := by
  cases h with
  | readn => rfl
  | header =>
    unfold headerDone State.place
    split <;> rfl
  | tail =>
    unfold tailDone State.place
    split
    · rfl
    · split <;> rfl

theorem ErPhase.exec {i : Instr} {s : State} {done : State → State} {a : Option BusAnswer}
    (h : ErPhase i s.ser.phase done) (ht : s.turn = .engine a) : exec i s = .next (erStep done s) := by
  generalize hp : s.ser.phase = p at h
  cases h with
  | readn n => exact execSerReadn_engine n ht hp
  | header => exact execSerFrame_header ht hp
  | tail => exact execSerFrame_tail ht hp

/-- Settles O29: the tests of the Exact Reader step, in their order. -/
theorem exactReaderStepOrder : Obligations.ExactReaderStepOrder := by
  intro i done s a ht hphase
  have hexec : exec i s = .next (erStep done s) := by
    apply ErPhase.exec _ ht
    rcases hphase with ⟨⟨n, rfl⟩, hp, rfl⟩ | ⟨rfl, hp, rfl⟩ | ⟨rfl, hp, rfl⟩ <;> rw [hp]
    · exact .readn n
    · exact .header
    · exact .tail
  rw [hexec]
  refine ⟨fun h => ?_, fun h hdl => ?_, fun h hdl he => ?_, fun h hdl he hq => ?_, fun b rest h hdl he hq =>
    ⟨fun hlast => ?_, fun hmore => ?_⟩⟩
  · rw [erStep_of_complete h]
  · rw [erStep_of_deadline h (deadlineReached_eq_true_iff.2 hdl)]
  · rw [erStep_of_rxErr h (deadlineReached_eq_false_iff.2 hdl) he]
  · rw [erStep_of_empty h (inTime_iff.2 ⟨hdl, he⟩) hq]
  · rw [erStep_of_cons h (inTime_iff.2 ⟨hdl, he⟩) hq, if_pos hlast]
  · rw [erStep_of_cons h (inTime_iff.2 ⟨hdl, he⟩) hq, if_neg hmore]

/-! ## `ser.readn`, accepted and completed -/

/-- Settles O23: the word of `ser.readn` is legal for every N. -/
theorem readnIsAccepted : Obligations.ReadnIsAccepted := by
  intro n s ht hidle
  rw [exec, execSerReadn_issue n ht, issueSer_ok _ hidle (decode_encode_serReadn n)]
  rfl

/-- A count one short of another is not that other. -/
theorem ne_of_succ_eq {a b : Half} (h : a + 1 = b) : a ≠ b := by
  bv_omega

/-- Settles O31: the byte that makes COUNT equal NEED, and NEED = 0, lead to the completion action. -/
theorem readnCompletes : Obligations.ReadnCompletes := by
  refine ⟨fun n s a b rest ht _ hp hlast hnow he hq => ?_, fun n s a ht _ hp hneed hcnt => ?_⟩ <;>
    rw [exec, execSerReadn_engine n ht hp]
  · have hsum : sumCovers s.ser = true := sumCovers_eq_true_iff.2 (.inl hp)
    rw [erStep_of_cons (ne_of_succ_eq hlast) ⟨hnow, he⟩ hq, if_pos hlast, readnDone, erStore_eq]
    simp only [State.setRxq_ser, hsum, if_true, hlast]
    rfl
  · rw [erStep_of_complete (hcnt.trans hneed.symm)]
    rfl

/-! ## The registers an engine step leaves alone -/

/-- The Exact Reader's own updates of the engine: the status and the counts. -/
def OnlyCountsChanged (e f : SerEngine) : Prop :=
  ∃ st cnt total sum, f = { e with st := st, cnt := cnt, total := total, sum := sum }

/-- Until its completion action, an Exact Reader step updates the status and the counts alone. -/
theorem erStep_counts {P : State → Prop} {done : State → State} {s : State}
    (hgo : ∀ t, OnlyCountsChanged s.ser t.ser → P t) (hdone : ∀ t, OnlyCountsChanged s.ser t.ser → P (done t)) :
    P (erStep done s) :=
  erStep_parts (I := fun t => OnlyCountsChanged s.ser t.ser) ⟨_, _, _, _, rfl⟩ (fun _ => ⟨_, _, _, _, rfl⟩)
    (fun _ _ => ⟨_, _, _, _, rfl⟩) hgo hdone

theorem readnStep_ser (s : State) : OnlyCountsChanged s.ser (erStep readnDone s).ser := by
  refine erStep_counts (P := fun t => OnlyCountsChanged s.ser t.ser) (fun _ h => h) ?_
  rintro t ⟨st, cnt, total, sum, h⟩
  exact ⟨st.raise .ok 0, cnt, total, sum, by simp [readnDone, h]⟩

theorem headerDone_keeps (s : State) :
    (headerDone s).ser.discard = s.ser.discard ∧ (headerDone s).ser.endb = s.ser.endb := by
  unfold headerDone
  split <;> exact ⟨rfl, rfl⟩

theorem tailDone_keeps (s : State) :
    (tailDone s).ser.discard = s.ser.discard ∧ (tailDone s).ser.kind = s.ser.kind ∧
    (tailDone s).ser.size = s.ser.size := by
  unfold tailDone
  split
  · exact ⟨rfl, rfl, rfl⟩
  · split <;> exact ⟨rfl, rfl, rfl⟩

theorem headerStep_keeps (s : State) :
    (erStep headerDone s).ser.discard = s.ser.discard ∧ (erStep headerDone s).ser.endb = s.ser.endb := by
  refine erStep_counts (P := fun t => t.ser.discard = s.ser.discard ∧ t.ser.endb = s.ser.endb) ?_ ?_ <;>
    rintro t ⟨_, _, _, _, h⟩
  · simp [h]
  · simp [headerDone_keeps, h]

theorem tailStep_keeps (s : State) :
    (erStep tailDone s).ser.discard = s.ser.discard ∧ (erStep tailDone s).ser.kind = s.ser.kind ∧
    (erStep tailDone s).ser.size = s.ser.size := by
  refine erStep_counts (P := fun t => t.ser.discard = s.ser.discard ∧ t.ser.kind = s.ser.kind ∧
    t.ser.size = s.ser.size) ?_ ?_ <;> rintro t ⟨_, _, _, _, h⟩
  · simp [h]
  · simp [tailDone_keeps, h]

theorem scanStep_keeps (s : State) :
    (scanStep s).ser.kind = s.ser.kind ∧ (scanStep s).ser.size = s.ser.size ∧
    (scanStep s).ser.endb = s.ser.endb := by
  rcases scanStep_cases s with
      ⟨_, e⟩ | ⟨_, _, e⟩ | ⟨_, _, _, e⟩ | ⟨_, _, _, _, e⟩ | ⟨_, _, _, _, _, _, e⟩ <;>
    rw [e] <;> exact ⟨rfl, rfl, rfl⟩

/-- An engine step of `ser.readn` that answers is one of READN. -/
theorem execSerReadn_engine_next {n : Half} {s t : State} {a : Option BusAnswer} (ht : s.turn = .engine a)
    (h : execSerReadn n s = .next t) : t = erStep readnDone s := by
  by_cases hp : s.ser.phase = .readn
  · rw [execSerReadn_engine n ht hp] at h
    cases h
    rfl
  · rw [execSerReadn_fault n ht hp] at h
    cases h

/-- An engine step of `ser.frame` that answers is one of SCAN, HEADER or TAIL. -/
theorem execSerFrame_engine_next {s t : State} {a : Option BusAnswer} (ht : s.turn = .engine a)
    (h : execSerFrame s = .next t) :
    (s.ser.phase = .scan ∧ t = scanStep s) ∨ (s.ser.phase = .header ∧ t = erStep headerDone s) ∨
    (s.ser.phase = .tail ∧ t = erStep tailDone s) := by
  cases hp : s.ser.phase with
  | scan =>
    rw [execSerFrame_scan ht hp] at h
    cases h
    exact .inl ⟨rfl, rfl⟩
  | header =>
    rw [execSerFrame_header ht hp] at h
    cases h
    exact .inr (.inl ⟨rfl, rfl⟩)
  | tail =>
    rw [execSerFrame_tail ht hp] at h
    cases h
    exact .inr (.inr ⟨rfl, rfl⟩)
  | idle | check | readn =>
    rw [execSerFrame_fault ht (by simp [hp])] at h
    cases h

/-- Settles O53: the completion actions and the scan write the registers of their own phase alone. -/
theorem serEngineStepFrame : Obligations.SerEngineStepFrame := by
  refine ⟨fun n s t a ht h => ?_, fun s t a ht h => ?_⟩
  · obtain rfl := execSerReadn_engine_next ht h
    obtain ⟨st, cnt, total, sum, h⟩ := readnStep_ser s
    simp [h]
  · rcases execSerFrame_engine_next ht h with ⟨hp, rfl⟩ | ⟨hp, rfl⟩ | ⟨hp, rfl⟩
    · simp [hp, scanStep_keeps]
    · simp [hp, headerStep_keeps]
    · simp [hp, tailStep_keeps]

/-! ## Runs of SER steps -/

/-- The state in which SER makes its move: only `turn` differs. -/
def State.serTurn (s : State) : State := { s with turn := .engine none }

@[simp] theorem State.serTurn_ser (s : State) : s.serTurn.ser = s.ser := rfl

theorem serMove_of_decode {i : Instr} {s : State} (hb : s.ser.st.busy = true) (hd : decode .ser s.ser.cmd = .ok i) :
    serMove s = exec i s := by
  simp [serMove, hb, hd]

/-- A busy SER's move is the engine step of its latched command. -/
theorem runMoves_ser_cons {i : Instr} {s u : State} {ms : List Move} (hb : s.ser.st.busy = true)
    (hd : decode .ser s.ser.cmd = .ok i)
    (h : exec i (s.serTurn.place ms) = .next (u.place ms)) :
    runMoves (.ser :: ms) s = runMoves ms u :=
  runMoves_cons ((serMove_of_decode (s := s.serTurn.place ms) hb hd).trans h)

/-- In a phase of the Exact Reader that engine step is `ErStep()`. -/
theorem runMoves_erPhase_cons {i : Instr} {done : State → State} {s u : State} {ms : List Move}
    (hb : s.ser.st.busy = true) (hd : decode .ser s.ser.cmd = .ok i) (hp : ErPhase i s.ser.phase done)
    (h : erStep done (s.serTurn.place ms) = u.place ms) :
    runMoves (.ser :: ms) s = runMoves ms u :=
  runMoves_ser_cons hb hd <|
    (ErPhase.exec (s := s.serTurn.place ms) hp rfl).trans (congrArg _ h)

section
variable {i : Instr} {done : State → State} {s : State} {b : Byte} {rest : List Byte} (ms : List Move)
  (hb : s.ser.st.busy = true) (hd : decode .ser s.ser.cmd = .ok i) (hp : ErPhase i s.ser.phase done) (hin : InTime s)
  (hcnt : s.ser.cnt < s.ser.need)
include hb hd hp hin hcnt

/-- The move that takes the last byte of a phase completes it (40_exact_reader.md R111). -/
theorem runMoves_erStep_last (hq : s.rxq = b :: rest) (hlast : s.ser.cnt + 1 = s.ser.need) :
    runMoves (.ser :: ms) s = runMoves ms (done (erStore b (s.serTurn.setRxq rest))) := by
  refine runMoves_erPhase_cons hb hd hp
    ((erStep_of_cons (s := s.serTurn.place ms) (BitVec.ne_of_lt hcnt) hin hq).trans ?_)
  exact (if_pos hlast).trans (hp.done_place ms (erStore b (s.serTurn.setRxq rest)))

/-- The move that takes any other byte of a phase stores it and goes on. -/
theorem runMoves_erStep_more (hq : s.rxq = b :: rest) (hmore : s.ser.cnt + 1 ≠ s.ser.need) :
    runMoves (.ser :: ms) s = runMoves ms (erStore b (s.serTurn.setRxq rest)) := by
  refine runMoves_erPhase_cons hb hd hp
    ((erStep_of_cons (s := s.serTurn.place ms) (BitVec.ne_of_lt hcnt) hin hq).trans ?_)
  exact if_neg hmore

end

/-- A phase that lacks as many bytes as the string `l`, which waits in the channel, takes and stores it, one byte a
step, and completes in the step that takes its last byte (40_exact_reader.md R111). -/
theorem runMoves_erStoreAll {i : Instr} {done : State → State} {s : State} {l rest : List Byte} (ms : List Move)
    (hb : s.ser.st.busy = true) (hd : decode .ser s.ser.cmd = .ok i) (hp : ErPhase i s.ser.phase done)
    (hin : InTime s) (hne : l ≠ []) (hlen : s.ser.cnt.toNat + l.length = s.ser.need.toNat)
    (hq : s.rxq = l ++ rest) :
    runMoves (List.replicate l.length .ser ++ ms) s =
      runMoves ms (done (erStoreAll l (s.serTurn.setRxq rest))) := by
  induction l generalizing s with
  | nil => exact absurd rfl hne
  | cons b l ih =>
    rw [List.length_cons] at hlen
    have hcnt : s.ser.cnt < s.ser.need := by bv_omega
    have hsucc := toNat_succ_of_lt hcnt
    cases l with
    | nil => exact runMoves_erStep_last ms hb hd hp hin hcnt hq (BitVec.eq_of_toNat_eq (hsucc.trans hlen))
    | cons c l =>
      have hmore : s.ser.cnt + 1 ≠ s.ser.need := by
        rw [List.length_cons] at hlen
        intro h
        rw [← h, hsucc] at hlen
        omega
      have hlen' : (s.ser.cnt + 1).toNat + (c :: l).length = s.ser.need.toNat := by omega
      exact (runMoves_erStep_more _ hb hd hp hin hcnt hq hmore).trans
        (ih (s := erStore b (s.serTurn.setRxq (c :: l ++ rest))) hb hd hp hin
          (List.cons_ne_nil c l) hlen' rfl)

/-- A just begun `ser.readn` stores exactly the bytes it was asked for, and then completes. -/
theorem runMoves_readnBegun {s : State} {l rest : List Byte} (h : ReadnBegun s) (hin : InTime s)
    (hlen : l.length = s.ser.need.toNat) (hq : s.rxq = l ++ rest) :
    runMoves (List.replicate (max l.length 1) .ser) s =
      .next (readnDone (erStoreAll l (s.serTurn.setRxq rest))) := by
  obtain ⟨hb, hp, hd, hcnt, -⟩ := h
  have hphase : ErPhase (.serReadn s.ser.need) s.ser.phase readnDone := hp ▸ .readn _
  cases l with
  | nil =>
    have hcomplete : s.ser.cnt = s.ser.need := hcnt.trans (BitVec.eq_of_toNat_eq hlen)
    obtain rfl : s.rxq = rest := hq
    exact (runMoves_erPhase_cons hb hd hphase (erStep_of_complete (s := s.serTurn.place []) hcomplete)).trans
      (runMoves_nil _)
  | cons b l =>
    have hrun := runMoves_erStoreAll [] hb hd hphase hin (List.cons_ne_nil b l) (by rw [hcnt, ← hlen]; simp) hq
    have hmax : max (b :: l).length 1 = (b :: l).length := by simp
    rwa [hmax, ← List.append_nil (List.replicate _ _)]

/-- Settles O34: the run stores the bytes one by one, by induction on them, and what that leaves follows from what
storing a string does. -/
theorem readnReadsExactlyN : Obligations.ReadnReadsExactlyN := by
  intro s l rest h hin hlen hq
  have hrun := runMoves_readnBegun h hin hlen hq
  obtain ⟨-, hp, -, hcnt, htotal, hsum, hendb⟩ := h
  have hneed : BitVec.ofNat 16 l.length = s.ser.need := by rw [hlen, BitVec.ofNat_toNat, BitVec.setWidth_eq]
  have hser := erStoreAll_ser (s := s.serTurn.setRxq rest) l (.inl hp)
  have hzero : (s.serTurn.setRxq rest).ser.total.toNat = 0 := congrArg BitVec.toNat htotal
  have hfit : (s.serTurn.setRxq rest).ser.total.toNat + l.length < 2 ^ 16 := by
    rw [hzero, hlen, Nat.zero_add]
    exact s.ser.need.isLt
  obtain ⟨hbus, -, -, hnow, -, -, -, -, -, hpending, -⟩ := erStoreAll_onlySerChanged l (s.serTurn.setRxq rest)
  refine ⟨_, hrun, ?_, erStoreAll_rxq l _, fun i hi => ?_,
    fun i hi => erStoreAll_byte_other hfit (.inr (by rwa [hzero, Nat.zero_add])), hbus, hnow, hpending⟩
  · rw [readnDone, raiseSer_ser, hser]
    simp [Status.raise, hneed, hp, hcnt, htotal, hsum, hendb]
  · have hstored := erStoreAll_byte_stored hfit hi
    rwa [hzero, Nat.zero_add] at hstored

/-! ## The deadline bounds every SER command -/

/-- CLOCK steps before other moves advance TIME and leave the rest of the block (10_state.md R38). -/
theorem runMoves_clocks_append (n : Nat) (ms : List Move) (s : State) :
    ∃ a, runMoves (List.replicate n .clock ++ ms) s =
      runMoves ms { s with now := s.now + BitVec.ofNat 64 n, turn := a } := by
  induction n generalizing s with
  | zero => exact ⟨s.turn, by simp⟩
  | succ n ih =>
    obtain ⟨a, h⟩ := ih { s with now := s.now + 1, turn := .issue }
    refine ⟨a, ?_⟩
    rw [List.replicate_succ, List.cons_append, runMoves_clock, h, Nat.add_comm n 1, BitVec.ofNat_add,
      ← BitVec.add_assoc]
    rfl

/-- A scan step at the deadline ends the command (41_frame_scanner.md R131). -/
theorem scanStep_of_deadline {s : State} (h : deadlineReached s = true) : scanStep s = raiseSer .timeout 0 s :=
  if_pos h

/-- The result of a running SER command's engine step at its deadline: OK for a `ser.readn` that needs no byte. -/
def deadlineResult (e : SerEngine) : Result := if e.phase = .readn ∧ e.need = 0 then .ok else .timeout

/-- A running SER command ends in its first step at the deadline (40_exact_reader.md R115, 60_exceptions.md R201). -/
theorem SerRunning.exec_at_deadline {s : State} {a : Option BusAnswer} (h : SerRunning s.ser s.buf)
    (ht : s.turn = .engine a) (hdl : deadlineReached s = true) :
    ∃ i, decode .ser s.ser.cmd = .ok i ∧ exec i s = .next (raiseSer (deadlineResult s.ser) 0 s) := by
  cases hp : s.ser.phase <;> simp only [SerRunning, hp] at h
  case scan =>
    obtain ⟨hd, -⟩ := h
    refine ⟨_, hd, ?_⟩
    rw [exec, execSerFrame_scan ht hp, scanStep_of_deadline hdl]
    simp [deadlineResult, hp]
  case header =>
    obtain ⟨⟨hd, hneed, -⟩, hlt, -⟩ := h
    have hshort : s.ser.cnt ≠ s.ser.need := by rw [hneed]; bv_omega
    refine ⟨_, hd, ?_⟩
    rw [exec, execSerFrame_header ht hp, erStep_of_deadline hshort hdl]
    simp [deadlineResult, hp]
  case tail =>
    obtain ⟨⟨hd, -⟩, hlt, -⟩ := h
    have hshort : s.ser.cnt ≠ s.ser.need := by bv_omega
    refine ⟨_, hd, ?_⟩
    rw [exec, execSerFrame_tail ht hp, erStep_of_deadline hshort hdl]
    simp [deadlineResult, hp]
  case readn =>
    obtain ⟨⟨hd, hle, -⟩, hlt⟩ := h
    refine ⟨_, hd, ?_⟩
    rw [exec, execSerReadn_engine _ ht hp]
    by_cases hneed : s.ser.need = 0
    · have hcomplete : s.ser.cnt = s.ser.need := by bv_omega
      rw [erStep_of_complete hcomplete]
      simp [deadlineResult, hp, hneed, readnDone]
    · have hshort : s.ser.cnt ≠ s.ser.need := by bv_omega
      rw [erStep_of_deadline hshort hdl, deadlineResult, if_neg fun h => hneed h.2]

/-- A running SER command's move at its deadline, as a run. -/
theorem runMoves_ser_at_deadline {s : State} (hb : s.ser.st.busy = true) (h : SerRunning s.ser s.buf)
    (hdl : deadlineReached s = true) :
    runMoves [.ser] s = .next (raiseSer (deadlineResult s.ser) 0 s.serTurn) := by
  obtain ⟨i, hd, hexec⟩ := SerRunning.exec_at_deadline (s := s.serTurn) h rfl hdl
  exact (runMoves_ser_cons (u := raiseSer (deadlineResult s.ser) 0 s.serTurn) (ms := []) hb hd hexec).trans
    (runMoves_nil _)

/-- Settles O35: the CLOCK steps bring TIME to the deadline and leave the engine running, so its next step ends it. -/
theorem serCommandEndsByItsDeadline : Obligations.SerCommandEndsByItsDeadline := by
  intro s hinv hb hle
  obtain ⟨-, -, -, hrun⟩ := (SerInv_running hb).1 hinv.ser
  obtain ⟨a, hclocks⟩ := runMoves_clocks_append (s.ser.dl.toNat - s.now.toNat) [.ser] s
  have hnow : s.now + BitVec.ofNat 64 (s.ser.dl.toNat - s.now.toNat) = s.ser.dl := by
    have hdl := s.ser.dl.isLt
    rw [BitVec.le_def] at hle
    apply BitVec.eq_of_toNat_eq
    rw [BitVec.toNat_add, BitVec.toNat_ofNat]
    omega
  rw [hnow] at hclocks
  have hend := runMoves_ser_at_deadline (s := { s with now := s.ser.dl, turn := a }) hb hrun
    (deadlineReached_eq_true_iff.2 (Nat.le_refl _))
  exact ⟨_, hclocks.trans hend, rfl, rfl, rfl, rfl, rfl, rfl⟩

end Sys2Proof.Machine

/-! # Proofs: the Frame Scanner and `ser.frame` (41_frame_scanner.md) -/

namespace Sys2Proof.Machine

open Sys2Proof

/-! ## `ser.frame`, accepted -/

/-- Settles O24: the word of `ser.frame` is legal. -/
theorem frameIsAccepted : Obligations.FrameIsAccepted := by
  intro s ht hidle
  have hd : decode .ser (encode .serFrame) = .ok .serFrame := decodeEncodeRoundTrip .serFrame rfl
  rw [exec, execSerFrame_issue ht, issueSer_ok _ hidle hd]
  rfl

/-! ## The scan step, test by test -/

section
variable {s : State}

theorem scanStep_of_rxErr (hd : deadlineReached s = false) (he : s.rxErr = true) :
    scanStep s = raiseSer .ioError 0 s := by
  simp [scanStep, hd, he]

theorem scanStep_of_empty (hin : InTime s) (hq : s.rxq = []) : scanStep s = s := by
  simp [scanStep, hin.deadlineReached, hin.2, rxTake_nil hq]

theorem scanStep_of_start {rest : List Byte} (hin : InTime s) (hq : s.rxq = Config.startMarker :: rest) :
    scanStep s = scanStart Config.startMarker (s.setRxq rest) := by
  simp [scanStep, hin.deadlineReached, hin.2, rxTake_cons hq]

theorem scanStep_of_stray {b : Byte} {rest : List Byte} (hin : InTime s) (hq : s.rxq = b :: rest)
    (hb : b ≠ Config.startMarker) : scanStep s = scanStray (s.setRxq rest) := by
  simp [scanStep, hin.deadlineReached, hin.2, rxTake_cons hq, hb]

end

/-- The stray byte count stays at its limit once there (10_state.md R32). -/
theorem discardNext_eq (d : Word) : discardNext d = if d = 0xFFFFFFFF then 0xFFFFFFFF else d + 1 :=
  ite_congr rfl id fun _ => rfl

/-- Settles O36: the tests of the scan step, in their order; COUNT and TOTAL are 0 by the invariant of SCAN. -/
theorem scanStepOrder : Obligations.ScanStepOrder := by
  refine ⟨fun s hinv hb hp => ?_, fun s a ht hp => ?_⟩
  · obtain ⟨-, -, -, hrun⟩ := (SerInv_running hb).1 hinv.ser
    rw [SerRunning, hp] at hrun
    obtain ⟨-, -, hcnt, htotal, -⟩ := hrun
    exact ⟨hcnt, htotal⟩
  · rw [exec, execSerFrame_scan ht hp]
    refine ⟨fun hdl => ?_, fun hdl he => ?_, fun hdl he hq => ?_, fun b rest hdl he hq =>
      ⟨fun hb => ?_, fun hb => ?_⟩⟩
    · rw [scanStep_of_deadline (deadlineReached_eq_true_iff.2 hdl)]
    · rw [scanStep_of_rxErr (deadlineReached_eq_false_iff.2 hdl) he]
    · rw [scanStep_of_empty (inTime_iff.2 ⟨hdl, he⟩) hq]
    · subst hb
      rw [scanStep_of_start (inTime_iff.2 ⟨hdl, he⟩) hq]
      rfl
    · rw [scanStep_of_stray (inTime_iff.2 ⟨hdl, he⟩) hq hb, scanStray, discardNext_eq]
      rfl

/-! ## The completion actions -/

/-- The result that the terminator and then the sum decide (41_frame_scanner.md R135). -/
def checkResult (endb sum : Byte) : Result :=
  if endb ≠ 0x7D then .invalidFrame else if sum ≠ 0 then .checksumMismatch else .ok

/-- The DETAIL that goes with it. -/
def checkDetail (endb : Byte) : BitVec 2 := if endb ≠ 0x7D then 1 else 0

theorem checkDecided_iff {e : SerEngine} :
    CheckDecided e ↔ e.st.result = checkResult e.endb e.sum ∧ e.st.detail = checkDetail e.endb := by
  unfold CheckDecided checkResult checkDetail Config.terminator
  split
  · rfl
  · split <;> rfl

theorem tailDone_eq (s : State) :
    tailDone s =
      raiseSer (checkResult (frameEnd s.buf s.ser.size) s.ser.sum) (checkDetail (frameEnd s.buf s.ser.size))
        (s.setSer { s.ser with endb := frameEnd s.buf s.ser.size, phase := .check }) := by
  unfold tailDone checkResult checkDetail Config.terminator
  split
  · rfl
  · split <;> rfl

/-- The last tail byte is stored at index `size - 1`, stays out of the sum and decides the result with it
(41_frame_scanner.md R135). -/
theorem tailDone_erStore_last {s : State} (b : Byte) (hp : s.ser.phase = .tail) (hlast : s.ser.cnt + 1 = s.ser.need)
    (hsize : 6 ≤ s.ser.size) (htotal : s.ser.total = s.ser.size - 1) :
    tailDone (erStore b s) = (s.setBuf (s.buf.memWrite s.ser.total.toNat b)).setSer
      { s.ser with
        st := s.ser.st.raise (checkResult b s.ser.sum) (checkDetail b)
        total := s.ser.size, cnt := s.ser.need, endb := b, phase := .check } := by
  have hindex : s.ser.total.toNat = s.ser.size.toNat - 1 := by bv_omega
  have hnext : s.ser.total + 1 = s.ser.size := by rw [htotal]; exact BitVec.sub_add_cancel _ _
  have hsum : sumCovers s.ser = false := by
    simp only [sumCovers, hp, decide_eq_false_iff_not]
    omega
  have hend : frameEnd (erStore b s).buf s.ser.size = b := by
    rw [frameEnd_eq, ← hindex, erStore_buf, FrameBuf.byte_memWrite_same]
  rw [tailDone_eq, erStore_ser_not_summed b hsum, hend, hlast, hnext]
  rfl

/-- Settles O38: the last tail byte is the terminator's place. -/
theorem frameCompletes : Obligations.FrameCompletes := by
  intro s a b rest ht _ hp hlast hsize htotal hnow he hq
  rw [exec, execSerFrame_tail ht hp, erStep_of_cons (ne_of_succ_eq hlast) ⟨hnow, he⟩ hq, if_pos hlast]
  exact congrArg _ (tailDone_erStore_last (s := s.setRxq rest) b hp hlast hsize htotal)

section
variable {s : State} (hi : Byte) (hp : s.ser.phase = .header) (hcnt : s.ser.cnt = 2) (htotal : s.ser.total = 3)
include hp hcnt htotal

/-- The third header byte is the high byte of the declared size (41_frame_scanner.md R133). -/
theorem erStore_size_byte :
    (erStore hi s).ser = { s.ser with sum := s.ser.sum + hi, total := 4, cnt := 3 } ∧
    (erStore hi s).buf = s.buf.memWrite 3 hi ∧
    frameKind (erStore hi s).buf = s.buf.byte 1 ∧ frameSize (erStore hi s).buf = hi ++ s.buf.byte 2 := by
  have hbuf : (erStore hi s).buf = s.buf.memWrite 3 hi := by rw [erStore_buf, htotal]; rfl
  refine ⟨?_, hbuf, ?_, ?_⟩
  · rw [erStore_ser_summed hi (sumCovers_eq_true_iff.2 (.inr (.inl hp))), hcnt, htotal]
    rfl
  · rw [frameKind_eq, hbuf, FrameBuf.byte_memWrite_other _ _ (by decide)]
  · rw [frameSize_eq, hbuf, FrameBuf.byte_memWrite_same, FrameBuf.byte_memWrite_other _ _ (by decide)]

theorem headerDone_erStore_short (hsize : (hi ++ s.buf.byte 2 : Half).toNat < 6) :
    headerDone (erStore hi s) = (s.setBuf (s.buf.memWrite 3 hi)).setSer
      { s.ser with
        st := s.ser.st.raise .invalidFrame 0
        sum := s.ser.sum + hi, total := 4, cnt := 3, kind := s.buf.byte 1, size := hi ++ s.buf.byte 2 } := by
  obtain ⟨hser, hbuf, hkind, hfs⟩ := erStore_size_byte hi hp hcnt htotal
  rw [headerDone, hkind, hfs, hser, if_pos (BitVec.lt_def.2 hsize), erStore_eq, ← erStore_buf, hbuf]
  rfl

theorem headerDone_erStore_long (hsize : 6 ≤ (hi ++ s.buf.byte 2 : Half).toNat) :
    headerDone (erStore hi s) = (s.setBuf (s.buf.memWrite 3 hi)).setSer
      { s.ser with
        sum := s.ser.sum + hi, total := 4, cnt := 0, kind := s.buf.byte 1, size := hi ++ s.buf.byte 2
        phase := .tail, need := (hi ++ s.buf.byte 2 : Half) - 4 } := by
  obtain ⟨hser, hbuf, hkind, hfs⟩ := erStore_size_byte hi hp hcnt htotal
  have hlong : ¬ (hi ++ s.buf.byte 2 : Half) < Config.minSize := fun h => Nat.not_lt.2 hsize (BitVec.lt_def.1 h)
  rw [headerDone, hkind, hfs, hser, if_neg hlong, erStore_eq, ← erStore_buf, hbuf]
  rfl

end

/-- Settles O37: the third header byte completes the size, which decides. -/
theorem headerCompletes : Obligations.HeaderCompletes := by
  intro s a hi rest ht _ hp hneed hcnt htotal hnow he hq
  have hlast : s.ser.cnt + 1 = s.ser.need := by rw [hcnt, hneed]; rfl
  rw [exec, execSerFrame_header ht hp, erStep_of_cons (ne_of_succ_eq hlast) ⟨hnow, he⟩ hq, if_pos hlast]
  refine ⟨fun hsize => ?_, fun hsize => ?_⟩
  · exact congrArg _ (headerDone_erStore_short (s := s.setRxq rest) hi hp hcnt htotal hsize)
  · exact congrArg _ (headerDone_erStore_long (s := s.setRxq rest) hi hp hcnt htotal hsize)

/-! ## A frame that ended with OK -/

theorem checkResult_eq_ok_iff {endb sum : Byte} : checkResult endb sum = .ok ↔ endb = 0x7D ∧ sum = 0 := by
  unfold checkResult
  split
  · simp_all
  · split <;> simp_all

/-- Of all the states an ended `ser.frame` can be in, only CHECK has OK (41_frame_scanner.md R137). -/
theorem SerEnded.check_of_frame_ok {e : SerEngine} {b : FrameBuf} (h : SerEnded e b) (hok : e.st.result = .ok)
    (hd : decode .ser e.cmd = .ok .serFrame) :
    e.phase = .check ∧ TailFacts e b ∧ e.cnt = e.need ∧ e.sum = bufSum b (e.size.toNat - 1) ∧
      e.endb = b.byte (e.size.toNat - 1) ∧ CheckDecided e := by
  have hwait : ¬ WaitEnded e.st := by simp [WaitEnded, hok]
  cases hp : e.phase <;> simp only [SerEnded, hp] at h
  case idle => simp [hok] at h
  case scan =>
    obtain ⟨-, hw⟩ := h
    exact absurd hw hwait
  case header =>
    obtain ⟨-, ⟨-, -, -, hw⟩ | ⟨-, -, -, hr, -⟩⟩ := h
    · exact absurd hw hwait
    · simp [hok] at hr
  case tail =>
    obtain ⟨-, -, -, -, hw⟩ := h
    exact absurd hw hwait
  case check => exact ⟨rfl, h⟩
  case readn =>
    obtain ⟨⟨hr, -⟩, -⟩ := h
    simp [hd] at hr

/-- Settles O44: OK is decided in CHECK alone, where the invariant says what the buffer holds. -/
theorem okFrameIsValidFrame : Obligations.OkFrameIsValidFrame := by
  intro s hinv hb hdone hok hd
  obtain ⟨hp, htail, hcnt, hsum, hendb, hdec⟩ :=
    SerEnded.check_of_frame_ok ((SerInv_ended hb hdone).1 hinv.ser) hok hd
  obtain ⟨-, hsize, ⟨hkind, hfs⟩, hneed, -, htotal, hstart⟩ := htail
  obtain ⟨hresult, -⟩ := checkDecided_iff.1 hdec
  obtain ⟨hterm, hzero⟩ := checkResult_eq_ok_iff.1 (hresult.symm.trans hok)
  have htotal' : s.ser.total = s.ser.size := by
    rw [htotal, hcnt, hneed]
    exact BitVec.sub_add_cancel _ _
  exact ⟨hstart, BitVec.le_def.1 hsize, (congrArg BitVec.toNat hfs).trans (frameSize_toNat s.buf), hendb ▸ hterm,
    hsum ▸ hzero, hkind, htotal', hcnt.trans hneed, hneed, hzero, hterm, hp⟩

end Sys2Proof.Machine

/-! # Proofs: whole runs of `ser.frame` over a stream (41_frame_scanner.md R137 to R145) -/

namespace Sys2Proof.Machine

open Sys2Proof

/-! ## Numbers of 16 bits -/

theorem eq_ofNat_of_toNat {x : Half} {n : Nat} (h : x.toNat = n) : x = BitVec.ofNat 16 n := by
  rw [← h, BitVec.ofNat_toNat, BitVec.setWidth_eq]

theorem sub_four_toNat {size : Half} (h : 6 ≤ size.toNat) : (size - 4).toNat + 4 = size.toNat := by
  bv_omega

/-! ## Checksum8 and the shape of a frame -/

theorem checksum8_append_singleton (l : List Byte) (b : Byte) : checksum8 (l ++ [b]) = checksum8 l + b := by
  induction l with
  | nil => simp [checksum8]
  | cons c l ih => rw [List.cons_append, checksum8, checksum8, ih, BitVec.add_assoc]

/-- The parts of a byte string of a frame's shape (30_encoding.md R89, R90). -/
theorem FrameShaped.parts {f : List Byte} (h : FrameShaped f) :
    ∃ kind lo hi body last, f = [Config.startMarker, kind, lo, hi] ++ (body ++ [last]) ∧
      (hi ++ lo : Half).toNat = f.length := by
  obtain ⟨hhead, hsize, hlen⟩ := h
  match f with
  | [] | [_] | [_, _] | [_, _, _] => simp at hlen
  | start :: kind :: lo :: hi :: tail =>
    obtain rfl : start = Config.startMarker := by simpa using hhead
    have htail : tail ≠ [] := by
      rintro rfl
      simp at hlen
    refine ⟨kind, lo, hi, tail.dropLast, tail.getLast htail, ?_, ?_⟩
    · rw [List.dropLast_append_getLast]
      rfl
    · rw [append_toNat, ← hsize, declaredSize]
      omega

/-- A byte stored after a string in the buffer extends it. -/
theorem BufHolds.append_singleton {b : FrameBuf} {l : List Byte} (h : BufHolds b l) (v : Byte) :
    BufHolds (b.memWrite l.length v) (l ++ [v]) := by
  intro i hi
  rw [List.length_append, List.length_singleton] at hi
  by_cases hlast : i = l.length
  · rw [hlast, FrameBuf.byte_memWrite_same, List.getElem?_concat_length]
  · rw [FrameBuf.byte_memWrite_other _ _ hlast, List.getElem?_append_left (by omega)]
    exact h i (by omega)

/-! ## Runs of SER steps -/

/-- `k` SER moves lead from `s` to `t`, whatever moves come after them. -/
def SerSteps (k : Nat) (s t : State) : Prop :=
  ∀ ms, runMoves (List.replicate k .ser ++ ms) s = runMoves ms t

theorem SerSteps.zero (s : State) : SerSteps 0 s s := fun _ => rfl

theorem SerSteps.trans {j k : Nat} {s t u : State} (h : SerSteps j s t) (h' : SerSteps k t u) :
    SerSteps (j + k) s u := fun ms => by
  rw [List.replicate_add, List.append_assoc, h, h']

theorem SerSteps.runMoves {k : Nat} {s t : State} (h : SerSteps k s t) :
    Machine.runMoves (List.replicate k .ser) s = .next t := by
  simpa [runMoves_nil] using h []

/-- What one step does to a string's next byte, done for a whole string: `P pre rest t` says that `pre` has been taken
and `rest` waits, and `N` bounds what is taken so. -/
theorem serSteps_string {P : List Byte → List Byte → State → Prop} {N : Nat}
    (hstep : ∀ {pre b rest t}, P pre (b :: rest) t → pre.length < N → ∃ u, SerSteps 1 t u ∧ P (pre ++ [b]) rest u)
    {pre l rest : List Byte} {t : State} (h : P pre (l ++ rest) t) (hlen : pre.length + l.length ≤ N) :
    ∃ u, SerSteps l.length t u ∧ P (pre ++ l) rest u := by
  induction l generalizing pre t with
  | nil => exact ⟨t, .zero t, by simpa using h⟩
  | cons b l ih =>
    rw [List.length_cons] at hlen
    obtain ⟨u, hu, hP⟩ := hstep h (by omega)
    obtain ⟨v, hv, hP⟩ := ih hP (by rw [List.length_append, List.length_singleton]; omega)
    exact ⟨v, by rw [List.length_cons, Nat.add_comm]; exact hu.trans hv, by simpa using hP⟩

/-! ## What a running `ser.frame` has taken -/

/-- From `s` on, `n` stray bytes have been dropped and the bytes `pre` stored from index 0 on; `rest` waits in the
channel, which is otherwise as it was. -/
structure FrameTaken (s : State) (n : Nat) (pre rest : List Byte) (t : State) : Prop where
  bus : t.bus = s.bus
  now : t.now = s.now
  rxErr : t.rxErr = s.rxErr
  pending : t.pending = s.pending
  dl : t.ser.dl = s.ser.dl
  discard : t.ser.discard = BitVec.ofNat 32 (min n 0xFFFFFFFF)
  total : t.ser.total.toNat = pre.length
  queue : t.rxq = rest
  bytes : BufHolds t.buf pre
  untouched : ∀ i, pre.length ≤ i → t.buf.byte i = s.buf.byte i

/-- `ser.frame` runs in the phase `p`. -/
structure FrameRuns (p : SerPhase) (e : SerEngine) : Prop where
  busy : e.st.busy = true
  cmd : decode .ser e.cmd = .ok .serFrame
  phase : e.phase = p

/-- In SCAN: nothing is stored yet (41_frame_scanner.md R131). -/
structure ScanAt (s : State) (n : Nat) (rest : List Byte) (t : State) : Prop
    extends FrameTaken s n [] rest t, FrameRuns .scan t.ser

/-- In HEADER, the start marker not counted in COUNT (41_frame_scanner.md R132). -/
structure HeaderAt (s : State) (n : Nat) (pre rest : List Byte) (t : State) : Prop
    extends FrameTaken s n pre rest t, FrameRuns .header t.ser where
  need : t.ser.need = 3
  cnt : t.ser.cnt.toNat + 1 = pre.length
  sum : t.ser.sum = checksum8 pre

/-- In TAIL, the four header bytes not counted in COUNT (41_frame_scanner.md R133, R134). -/
structure TailAt (s : State) (n : Nat) (kind : Byte) (size : Half) (pre rest : List Byte) (t : State) : Prop
    extends FrameTaken s n pre rest t, FrameRuns .tail t.ser where
  kind_eq : t.ser.kind = kind
  size_eq : t.ser.size = size
  need : t.ser.need.toNat + 4 = size.toNat
  cnt : t.ser.cnt.toNat + 4 = pre.length
  sum : t.ser.sum = checksum8 pre

section
variable {s t : State} {n : Nat} {pre rest : List Byte}

/-- Taking bytes passes no time and raises no error. -/
theorem FrameTaken.inTime (h : FrameTaken s n pre rest t) (hin : InTime s) : InTime t :=
  ⟨by rw [h.now, h.dl]; exact hin.1, h.rxErr.trans hin.2⟩

/-- A byte is taken and stored at the end of what is stored already, and the engine keeps its deadline and its stray
byte count. -/
theorem FrameTaken.stored {b : Byte} {a : Nat} {e : SerEngine} (h : FrameTaken s n pre (b :: rest) t)
    (ha : a = pre.length) (htotal : e.total.toNat = pre.length + 1) (hdl : e.dl = t.ser.dl)
    (hdiscard : e.discard = t.ser.discard) :
    FrameTaken s n (pre ++ [b]) rest (((t.serTurn.setRxq rest).setBuf (t.buf.memWrite a b)).setSer e) where
  bus := h.bus
  now := h.now
  rxErr := h.rxErr
  pending := h.pending
  dl := hdl.trans h.dl
  discard := hdiscard.trans h.discard
  total := by rw [List.length_append]; exact htotal
  queue := rfl
  bytes := ha ▸ h.bytes.append_singleton b
  untouched i hi := by
    rw [List.length_append, List.length_singleton] at hi
    exact (FrameBuf.byte_memWrite_other _ _ (by omega)).trans (h.untouched i (by omega))

/-- The Exact Reader stores a byte so (40_exact_reader.md R112). -/
theorem FrameTaken.store {b : Byte} (h : FrameTaken s n pre (b :: rest) t) (hlen : pre.length + 1 < 2 ^ 16) :
    FrameTaken s n (pre ++ [b]) rest (erStore b (t.serTurn.setRxq rest)) :=
  have htotal : (t.serTurn.setRxq rest).ser.total.toNat = pre.length := h.total
  h.stored htotal ((erStore_total_toNat b (htotal ▸ hlen)).trans (congrArg (· + 1) htotal)) rfl rfl

theorem erStore_sum_append (b : Byte) (hcovers : sumCovers t.ser = true) (hsum : t.ser.sum = checksum8 pre) :
    (erStore b t).ser.sum = checksum8 (pre ++ [b]) := by
  rw [erStore_ser_summed b hcovers, checksum8_append_singleton, hsum]

theorem FrameBegun.scanAt (h : FrameBegun s) : ScanAt s 0 s.rxq s := by
  obtain ⟨hb, hp, hd, -, -, htotal, -, hdiscard⟩ := h
  exact
    { bus := rfl, now := rfl, rxErr := rfl, pending := rfl, dl := rfl, discard := hdiscard
      total := congrArg BitVec.toNat htotal, queue := rfl, bytes := nofun, untouched := fun _ _ => rfl
      busy := hb, cmd := hd, phase := hp }

/-! ## SCAN -/

/-- A move in SCAN is a scan step. -/
theorem FrameRuns.serSteps_scan {u : State} (h : FrameRuns .scan t.ser)
    (hstep : ∀ ms, scanStep (t.serTurn.place ms) = u.place ms) : SerSteps 1 t u := fun ms =>
  runMoves_ser_cons h.busy h.cmd
    ((execSerFrame_scan (s := t.serTurn.place ms) rfl h.phase).trans (congrArg _ (hstep ms)))

/-- The stray byte count up to its limit (10_state.md R32). -/
theorem discardNext_ofNat_min (n : Nat) :
    discardNext (BitVec.ofNat 32 (min n 0xFFFFFFFF)) = BitVec.ofNat 32 (min (n + 1) 0xFFFFFFFF) := by
  by_cases h : n < 0xFFFFFFFF
  · rw [Nat.min_eq_left (by omega), Nat.min_eq_left (by omega), discardNext, if_neg (by bv_omega), BitVec.ofNat_add]
    rfl
  · rw [Nat.min_eq_right (by omega), Nat.min_eq_right (by omega)]
    rfl

theorem ScanAt.stray {b : Byte} (h : ScanAt s n (b :: rest) t) (hin : InTime s) (hb : b ≠ Config.startMarker) :
    ∃ u, SerSteps 1 t u ∧ ScanAt s (n + 1) rest u := by
  have hdiscard : discardNext t.ser.discard = BitVec.ofNat 32 (min (n + 1) 0xFFFFFFFF) := by
    rw [h.discard, discardNext_ofNat_min]
  refine ⟨scanStray (t.serTurn.setRxq rest), h.toFrameRuns.serSteps_scan fun ms => ?_, ?_⟩
  · exact scanStep_of_stray (s := t.serTurn.place ms) (h.inTime hin) h.queue hb
  · exact { h with discard := hdiscard, queue := rfl }

theorem ScanAt.strays {stray : List Byte} (h : ScanAt s n (stray ++ rest) t) (hin : InTime s)
    (hstray : ∀ b ∈ stray, b ≠ Config.startMarker) :
    ∃ u, SerSteps stray.length t u ∧ ScanAt s (n + stray.length) rest u := by
  induction stray generalizing n t with
  | nil => exact ⟨t, .zero t, h⟩
  | cons b stray ih =>
    rw [List.forall_mem_cons] at hstray
    obtain ⟨hb, hstray⟩ := hstray
    obtain ⟨u, hu, h⟩ := h.stray hin hb
    obtain ⟨v, hv, h⟩ := ih h hstray
    rw [List.length_cons, Nat.add_comm stray.length 1, ← Nat.add_assoc]
    exact ⟨v, hu.trans hv, h⟩

theorem ScanAt.start (h : ScanAt s n (Config.startMarker :: rest) t) (hin : InTime s) :
    ∃ u, SerSteps 1 t u ∧ HeaderAt s n [Config.startMarker] rest u := by
  refine ⟨scanStart Config.startMarker (t.serTurn.setRxq rest), h.toFrameRuns.serSteps_scan fun ms => ?_, ?_⟩
  · exact scanStep_of_start (s := t.serTurn.place ms) (h.inTime hin) h.queue
  · exact
      { toFrameTaken := h.toFrameTaken.stored rfl rfl rfl rfl
        busy := h.busy, cmd := h.cmd, phase := rfl, need := rfl, cnt := rfl, sum := rfl }

/-! ## HEADER -/

theorem FrameRuns.erPhase_header {e : SerEngine} (h : FrameRuns .header e) :
    ErPhase .serFrame e.phase headerDone := h.phase ▸ .header

/-- A header byte before the last is stored and summed (40_exact_reader.md R112, 41_frame_scanner.md R132). -/
theorem HeaderAt.more {b : Byte} (h : HeaderAt s n pre (b :: rest) t) (hin : InTime s) (hlen : pre.length < 3) :
    ∃ u, SerSteps 1 t u ∧ HeaderAt s n (pre ++ [b]) rest u := by
  have hneed := h.need
  have hcnt := h.cnt
  have htotal := h.total
  have hlt : t.ser.cnt < t.ser.need := by bv_omega
  have hsum : sumCovers t.ser = true := sumCovers_eq_true_iff.2 (.inr (.inl h.phase))
  refine ⟨erStore b (t.serTurn.setRxq rest), fun ms => ?_, ?_⟩
  · exact runMoves_erStep_more ms h.busy h.cmd h.toFrameRuns.erPhase_header (h.inTime hin) hlt h.queue (by bv_omega)
  · exact
      { toFrameTaken := h.toFrameTaken.store (by omega)
        busy := h.busy, cmd := h.cmd, phase := h.phase, need := hneed
        cnt := by
          rw [List.length_append, ← hcnt]
          exact congrArg (· + 1) (toNat_succ_of_lt hlt)
        sum := erStore_sum_append (t := t.serTurn.setRxq rest) b hsum h.sum }

/-- The move that takes the last header byte completes the header (41_frame_scanner.md R133). -/
theorem HeaderAt.last {kind lo hi : Byte} (h : HeaderAt s n [Config.startMarker, kind, lo] (hi :: rest) t)
    (hin : InTime s) :
    SerSteps 1 t (headerDone (erStore hi (t.serTurn.setRxq rest))) ∧ t.ser.cnt = 2 ∧ t.ser.total = 3 ∧
      t.buf.byte 1 = kind ∧ t.buf.byte 2 = lo := by
  have hneed := h.need
  have hcnt : t.ser.cnt = 2 := by
    have := h.cnt
    simp only [List.length_cons, List.length_nil] at this
    bv_omega
  have hlt : t.ser.cnt < t.ser.need := by rw [hcnt, hneed]; decide
  have hlast : t.ser.cnt + 1 = t.ser.need := by rw [hcnt, hneed]; rfl
  have hkind := h.bytes 1 (by simp)
  have hlo := h.bytes 2 (by simp)
  refine ⟨fun ms => ?_, hcnt, BitVec.eq_of_toNat_eq h.total, by simpa using hkind.symm, by simpa using hlo.symm⟩
  exact runMoves_erStep_last ms h.busy h.cmd h.toFrameRuns.erPhase_header (h.inTime hin) hlt h.queue hlast

/-- A declared size below 6 ends the command there (41_frame_scanner.md R133, R139). -/
theorem HeaderAt.short {kind lo hi : Byte} (h : HeaderAt s n [Config.startMarker, kind, lo] (hi :: rest) t)
    (hin : InTime s) (hsize : (hi ++ lo : Half).toNat < 6) :
    ∃ u, SerSteps 1 t u ∧ u.rxq = rest ∧
      u.ser = { t.ser with
        st := t.ser.st.raise .invalidFrame 0
        sum := t.ser.sum + hi, total := 4, cnt := 3, kind := kind, size := hi ++ lo } := by
  obtain ⟨hrun, hcnt, htotal, rfl, rfl⟩ := h.last hin
  rw [headerDone_erStore_short (s := t.serTurn.setRxq rest) hi h.phase hcnt htotal hsize] at hrun
  exact ⟨_, hrun, rfl, rfl⟩

/-- Any other leads to TAIL. -/
theorem HeaderAt.long {kind lo hi : Byte} (h : HeaderAt s n [Config.startMarker, kind, lo] (hi :: rest) t)
    (hin : InTime s) (hsize : 6 ≤ (hi ++ lo : Half).toNat) :
    ∃ u, SerSteps 1 t u ∧ TailAt s n kind (hi ++ lo) [Config.startMarker, kind, lo, hi] rest u := by
  have hsum : t.ser.sum + hi = checksum8 [Config.startMarker, kind, lo, hi] := by
    rw [h.sum]
    exact (checksum8_append_singleton [Config.startMarker, kind, lo] hi).symm
  obtain ⟨hrun, hcnt, htotal, rfl, rfl⟩ := h.last hin
  rw [headerDone_erStore_long (s := t.serTurn.setRxq rest) hi h.phase hcnt htotal hsize] at hrun
  refine ⟨_, hrun, ?_⟩
  exact
    { toFrameTaken := h.toFrameTaken.stored rfl rfl rfl rfl
      busy := h.busy, cmd := h.cmd, phase := rfl, kind_eq := rfl, size_eq := rfl, cnt := rfl, sum := hsum
      need := sub_four_toNat hsize }

/-! ## TAIL -/

section
variable {kind b : Byte} {size : Half}

theorem FrameRuns.erPhase_tail {e : SerEngine} (h : FrameRuns .tail e) : ErPhase .serFrame e.phase tailDone :=
  h.phase ▸ .tail

/-- A tail byte before the last is stored and summed (40_exact_reader.md R112, 41_frame_scanner.md R134). -/
theorem TailAt.more (h : TailAt s n kind size pre (b :: rest) t) (hin : InTime s)
    (hlen : pre.length + 1 < size.toNat) :
    ∃ u, SerSteps 1 t u ∧ TailAt s n kind size (pre ++ [b]) rest u := by
  have hneed := h.need
  have hcnt := h.cnt
  have htotal := h.total
  have hsize := h.size_eq
  have hlt : t.ser.cnt < t.ser.need := by bv_omega
  have hsum : sumCovers t.ser = true :=
    sumCovers_eq_true_iff.2 (.inr (.inr ⟨h.phase, by rw [htotal, hsize]; exact hlen⟩))
  refine ⟨erStore b (t.serTurn.setRxq rest), fun ms => ?_, ?_⟩
  · exact runMoves_erStep_more ms h.busy h.cmd h.toFrameRuns.erPhase_tail (h.inTime hin) hlt h.queue (by bv_omega)
  · exact
      { toFrameTaken := h.toFrameTaken.store (by omega)
        busy := h.busy, cmd := h.cmd, phase := h.phase, kind_eq := h.kind_eq, size_eq := hsize, need := hneed
        cnt := by
          rw [List.length_append, List.length_singleton, ← hcnt, Nat.add_right_comm]
          exact congrArg (· + 4) (toNat_succ_of_lt hlt)
        sum := erStore_sum_append (t := t.serTurn.setRxq rest) b hsum h.sum }

/-- The last tail byte ends the command in CHECK (41_frame_scanner.md R135). -/
theorem TailAt.last (h : TailAt s n kind size pre (b :: rest) t) (hin : InTime s) (hsix : 6 ≤ size.toNat)
    (hlen : pre.length + 1 = size.toNat) :
    ∃ u, SerSteps 1 t u ∧ FrameTaken s n (pre ++ [b]) rest u ∧
      u.ser = { t.ser with
        st := t.ser.st.raise (checkResult b t.ser.sum) (checkDetail b)
        total := size, cnt := t.ser.need, endb := b, phase := .check } := by
  have hneed := h.need
  have hcnt := h.cnt
  have htotal := h.total
  have hlast : t.ser.cnt + 1 = t.ser.need := by bv_omega
  obtain rfl := h.size_eq
  have hrun : SerSteps 1 t (tailDone (erStore b (t.serTurn.setRxq rest))) := fun ms =>
    runMoves_erStep_last ms h.busy h.cmd h.toFrameRuns.erPhase_tail (h.inTime hin) (by bv_omega) h.queue hlast
  rw [tailDone_erStore_last (s := t.serTurn.setRxq rest) b h.phase hlast (BitVec.le_def.2 hsix) (by simp; bv_omega)]
    at hrun
  exact ⟨_, hrun, h.toFrameTaken.stored htotal hlen.symm rfl rfl, rfl⟩

end

end

/-! ## Whole commands -/

section
variable {s : State} {stray l rest : List Byte} {kind lo hi : Byte}

/-- Past the stray bytes the start marker begins the header (41_frame_scanner.md R131). -/
theorem frame_reaches_header (hs : FrameBegun s) (hin : InTime s) (hstray : ∀ b ∈ stray, b ≠ Config.startMarker)
    (hq : s.rxq = stray ++ (Config.startMarker :: rest)) :
    ∃ t, SerSteps (stray.length + 1) s t ∧ HeaderAt s stray.length [Config.startMarker] rest t := by
  obtain ⟨u, hu, h⟩ := (hq ▸ hs.scanAt).strays hin hstray
  obtain ⟨t, ht, h⟩ := h.start hin
  rw [Nat.zero_add] at h
  exact ⟨t, hu.trans ht, h⟩

/-- Up to three header bytes, the start marker among them, leave the command in HEADER. -/
theorem frame_reaches_header_bytes (hs : FrameBegun s) (hin : InTime s)
    (hstray : ∀ b ∈ stray, b ≠ Config.startMarker) (hlen : l.length ≤ 2)
    (hq : s.rxq = stray ++ ((Config.startMarker :: l) ++ rest)) :
    ∃ t, SerSteps (stray.length + (Config.startMarker :: l).length) s t ∧
      HeaderAt s stray.length (Config.startMarker :: l) rest t := by
  obtain ⟨u, hu, h⟩ := frame_reaches_header hs hin hstray hq
  obtain ⟨t, ht, h⟩ := serSteps_string (P := HeaderAt s stray.length) (N := 3) (fun h hlt => h.more hin hlt) h
    (by simp; omega)
  refine ⟨t, ?_, h⟩
  rw [List.length_cons, Nat.add_comm l.length 1, ← Nat.add_assoc]
  exact hu.trans ht

/-- A header that declares 6 or more, and any bytes short of what it declares, leave the command in TAIL. -/
theorem frame_reaches_tail_bytes (hs : FrameBegun s) (hin : InTime s)
    (hstray : ∀ b ∈ stray, b ≠ Config.startMarker) (hsix : 6 ≤ (hi ++ lo : Half).toNat)
    (hlen : l.length + 4 < (hi ++ lo : Half).toNat)
    (hq : s.rxq = stray ++ ([Config.startMarker, kind, lo, hi] ++ (l ++ rest))) :
    ∃ t, SerSteps (stray.length + (4 + l.length)) s t ∧
      TailAt s stray.length kind (hi ++ lo) ([Config.startMarker, kind, lo, hi] ++ l) rest t := by
  obtain ⟨u, hu, h⟩ := frame_reaches_header_bytes (l := [kind, lo]) hs hin hstray (by simp) hq
  obtain ⟨v, hv, h⟩ := h.long hin hsix
  obtain ⟨t, ht, h⟩ := serSteps_string (P := TailAt s stray.length kind (hi ++ lo)) (l := l)
    (N := (hi ++ lo : Half).toNat - 1) (fun h hlt => h.more hin (by omega)) h (by simp; omega)
  refine ⟨t, ?_, h⟩
  rw [← Nat.add_assoc]
  exact (hu.trans hv).trans ht

end

/-- The command has ended in CHECK with the byte string `f`, of a frame's shape (41_frame_scanner.md R135 to R138). -/
structure FrameChecked (s : State) (n : Nat) (f rest : List Byte) (t : State) : Prop
    extends FrameTaken s n f rest t where
  busy : t.ser.st.busy = false
  done : t.ser.st.done = true
  phase : t.ser.phase = .check
  decided : CheckDecided t.ser
  endb : f.getLast? = some t.ser.endb
  sum : t.ser.sum = checksum8 f.dropLast
  kind : f[1]? = some t.ser.kind
  size : t.ser.size.toNat = f.length
  cnt : t.ser.cnt = t.ser.need
  need : t.ser.need.toNat = f.length - 4

/-- A byte string of a frame's shape is taken whole and ends the command. -/
theorem frame_reaches_check {s : State} {stray f rest : List Byte} (hs : FrameBegun s) (hin : InTime s)
    (hstray : ∀ b ∈ stray, b ≠ Config.startMarker) (hf : FrameShaped f) (hq : s.rxq = stray ++ (f ++ rest)) :
    ∃ t, SerSteps (stray.length + f.length) s t ∧ FrameChecked s stray.length f rest t := by
  obtain ⟨kind, lo, hi, body, endb, rfl, hsize⟩ := hf.parts
  obtain ⟨-, -, hlen⟩ := hf
  have hbody : body.length + 5 = (hi ++ lo : Half).toNat := by simpa using hsize.symm
  rw [List.append_assoc, List.append_assoc] at hq
  obtain ⟨t, ht, h⟩ := frame_reaches_tail_bytes hs hin hstray (by omega) (by omega) hq
  obtain ⟨u, hu, htaken, hser⟩ := h.last hin (by omega) (by simp; omega)
  have hsteps : stray.length + ([Config.startMarker, kind, lo, hi] ++ (body ++ [endb])).length =
      stray.length + (4 + body.length) + 1 := by
    simp
    omega
  have hneed := h.need
  rw [List.append_assoc] at htaken
  rw [hsteps]
  refine ⟨u, ht.trans hu, ⟨htaken, ?busy, ?done, ?phase, ?decided, ?endb, ?sum, ?kind, ?size, ?cnt, ?need⟩⟩ <;>
    simp only [hser]
  case busy | done => rfl
  case decided => exact checkDecided_iff.2 ⟨rfl, rfl⟩
  case endb => rw [← List.append_assoc, List.getLast?_concat]
  case sum => rw [← List.append_assoc, List.dropLast_concat, h.sum]
  case kind => exact congrArg some h.kind_eq.symm
  case size => rw [h.size_eq, hsize]
  case need => omega

theorem FrameChecked.result {s t : State} {n : Nat} {f rest : List Byte} {endb : Byte}
    (h : FrameChecked s n f rest t) (hend : f.getLast? = some endb) :
    t.ser.st.result = checkResult endb (checksum8 f.dropLast) ∧ t.ser.st.detail = checkDetail endb := by
  obtain rfl : endb = t.ser.endb := Option.some.inj (hend.symm.trans h.endb)
  rw [← h.sum]
  exact checkDecided_iff.1 h.decided

/-- Settles O39: the run takes the stray bytes, the header and the tail in turn, each byte by one step, and its last
step decides the result. -/
theorem frameScannedFromStream : Obligations.FrameScannedFromStream := by
  intro s stray f rest hs hin hq hstray hf
  obtain ⟨t, hrun, h⟩ := frame_reaches_check hs hin hstray hf hq
  have hneed := eq_ofNat_of_toNat h.need
  exact ⟨t, hrun.runMoves, h.busy, h.done, h.phase, h.decided, h.endb, h.sum, eq_ofNat_of_toNat h.size, h.kind,
    eq_ofNat_of_toNat h.total, h.cnt.trans hneed, hneed, h.discard, h.bytes, h.queue, h.untouched, h.bus, h.now,
    h.pending⟩

/-- Settles O40: a valid frame ends with the terminator, and its Checksum8 is 0. -/
theorem frameResynchronises : Obligations.FrameResynchronises := by
  intro s stray f rest hs hin hq hstray hf
  obtain ⟨hshape, hterm, hsum⟩ := hf
  obtain ⟨t, hrun, h⟩ := frame_reaches_check hs hin hstray hshape hq
  obtain ⟨hresult, -⟩ := h.result hterm
  exact ⟨t, hrun.runMoves, h.done, hresult.trans (checkResult_eq_ok_iff.2 ⟨rfl, hsum⟩), h.phase, h.discard, h.bytes,
    h.queue⟩

/-! ## One byte replaced -/

/-- The four header bytes but for KIND decide whether a string has a frame's shape. -/
theorem FrameShaped.set {f : List Byte} {j : Nat} (h : FrameShaped f) (hj : j = 1 ∨ 4 ≤ j) (b : Byte) :
    FrameShaped (f.set j b) := by
  obtain ⟨hhead, hsize, hlen⟩ := h
  refine ⟨?_, ?_, by rwa [List.length_set]⟩
  · rw [List.head?_eq_getElem?, List.getElem?_set_ne (by omega), ← List.head?_eq_getElem?, hhead]
  · rw [List.length_set, ← hsize]
    match f with
    | [] | [_] | [_, _] | [_, _, _] => simp at hlen
    | start :: kind :: lo :: hi :: tail =>
      obtain rfl | ⟨i, rfl⟩ : j = 1 ∨ ∃ i, j = i + 4 := hj.imp id Nat.exists_eq_add_of_le'
      · rfl
      · rfl

/-- A byte replaced changes the Checksum8 by the difference. -/
theorem checksum8_set {l : List Byte} {j : Nat} {old : Byte} (h : l[j]? = some old) (b : Byte) :
    checksum8 (l.set j b) = checksum8 l - old + b := by
  induction l generalizing j with
  | nil => cases h
  | cons c l ih =>
    cases j with
    | zero =>
      obtain rfl : c = old := Option.some.inj h
      rw [List.set_cons_zero, checksum8, checksum8]
      bv_omega
    | succ j =>
      rw [List.set_cons_succ, checksum8, checksum8, ih h]
      bv_omega

/-- With no stray byte before it, a byte string of a frame's shape ends the command with the result it decides. -/
theorem frame_result {s : State} {f rest : List Byte} {endb : Byte} (hs : FrameBegun s) (hin : InTime s)
    (hf : FrameShaped f) (hend : f.getLast? = some endb) (hq : s.rxq = f ++ rest) :
    ∃ t, runMoves (List.replicate f.length .ser) s = .next t ∧ t.ser.st.done = true ∧
      t.ser.st.result = checkResult endb (checksum8 f.dropLast) ∧ t.ser.st.detail = checkDetail endb ∧
      t.rxq = rest := by
  obtain ⟨t, hrun, h⟩ := frame_reaches_check (stray := []) hs hin nofun hf hq
  rw [List.length_nil, Nat.zero_add] at hrun
  obtain ⟨hresult, hdetail⟩ := h.result hend
  exact ⟨t, hrun.runMoves, h.done, hresult, hdetail, h.queue⟩

/-- Settles O41: the replaced byte leaves the frame's shape, and changes its Checksum8 or is its last byte. -/
theorem corruptedByteIsDetected : Obligations.CorruptedByteIsDetected := by
  intro s f rest j b hs hin hf hj hne hq
  obtain ⟨hshape, hterm, hsum⟩ := hf
  have hold : f[j]? = some f[j] := List.getElem?_eq_getElem hj
  rw [hold] at hne
  refine ⟨fun hpos => ?_, fun hlast => ?_⟩
  · obtain ⟨-, -, hlen⟩ := id hshape
    have hinner : j < f.length - 1 := by omega
    have hterm' : (f.set j b).getLast? = some Config.terminator := by
      rw [List.getLast?_eq_getElem?, List.length_set, List.getElem?_set_ne (Nat.ne_of_lt hinner),
        ← List.getLast?_eq_getElem?, hterm]
    have hdrop : (f.set j b).dropLast = f.dropLast.set j b := by
      rw [List.dropLast_eq_take, List.length_set, List.take_set, ← List.dropLast_eq_take]
    have hold' : f.dropLast[j]? = some f[j] := by rw [List.getElem?_dropLast, if_pos hinner, hold]
    have hsum' : checksum8 (f.set j b).dropLast ≠ 0 := by
      rw [hdrop, checksum8_set hold', hsum]
      intro hzero
      exact hne (congrArg some (by bv_omega))
    have hshape' : FrameShaped (f.set j b) := hshape.set (hpos.imp id And.left) b
    obtain ⟨t, hrun, hdone, hresult, -, hrest⟩ := frame_result hs hin hshape' hterm' hq
    rw [List.length_set] at hrun
    exact ⟨t, hrun, hdone, hresult.trans ((if_neg (not_not_intro rfl)).trans (if_pos hsum')), hrest⟩
  · have hend : (f.set j b).getLast? = some b := by
      rw [List.getLast?_eq_getElem?, List.length_set, ← hlast, Nat.add_sub_cancel, List.getElem?_set_self hj]
    have hb : b ≠ 0x7D := by
      rintro rfl
      rw [List.getLast?_eq_getElem?, ← hlast, Nat.add_sub_cancel, hold] at hterm
      exact hne hterm
    obtain ⟨-, -, hlen⟩ := id hshape
    have hshape' : FrameShaped (f.set j b) := hshape.set (.inr (by omega)) b
    obtain ⟨t, hrun, hdone, hresult, hdetail, hrest⟩ := frame_result hs hin hshape' hend hq
    rw [List.length_set] at hrun
    exact ⟨t, hrun, hdone, hresult.trans (if_pos hb), hdetail.trans (if_pos hb), hrest⟩

/-! ## A short size -/

/-- Settles O42: the third header byte ends the command in HEADER. -/
theorem shortSizeTakesFourBytes : Obligations.ShortSizeTakesFourBytes := by
  intro s stray rest kind lo hi hs hin hq hstray hsize
  obtain ⟨t, ht, h⟩ := frame_reaches_header_bytes (l := [kind, lo]) (rest := hi :: rest) hs hin hstray (by simp) hq
  have hshort : (hi ++ lo : Half).toNat < 6 := by rw [append_toNat]; omega
  obtain ⟨u, hu, hrest, hser⟩ := h.short hin hshort
  refine ⟨u, (ht.trans hu).runMoves, ?busy, ?done, ?result, ?detail, ?phase, ?kind, ?size, ?total, ?cnt, ?need,
    hrest⟩ <;> rw [hser]
  case phase => exact h.phase
  case need => exact h.need
  all_goals rfl

/-! ## A truncated frame -/

/-- `ser.frame` runs in the phase `p`, short of bytes, and the channel holds none. -/
structure FrameWaits (s : State) (n : Nat) (pre : List Byte) (p : SerPhase) (t : State) : Prop
    extends FrameTaken s n pre [] t, FrameRuns p t.ser where
  short : p = .scan ∨ (p = .header ∨ p = .tail) ∧ t.ser.cnt ≠ t.ser.need

section
variable {s : State} {stray l : List Byte} (hs : FrameBegun s) (hin : InTime s)
  (hstray : ∀ b ∈ stray, b ≠ Config.startMarker)
include hs hin hstray

theorem frame_waits_in_scan (hq : s.rxq = stray ++ []) :
    ∃ t, SerSteps stray.length s t ∧ FrameWaits s stray.length [] .scan t := by
  obtain ⟨t, hsteps, h⟩ := (hq ▸ hs.scanAt).strays hin hstray
  rw [Nat.zero_add] at h
  exact ⟨t, hsteps, { h with short := .inl rfl }⟩

theorem frame_waits_in_header (hlen : l.length ≤ 2) (hq : s.rxq = stray ++ Config.startMarker :: l) :
    ∃ t, SerSteps (stray.length + (Config.startMarker :: l).length) s t ∧
      FrameWaits s stray.length (Config.startMarker :: l) .header t := by
  rw [← List.append_nil (_ :: l)] at hq
  obtain ⟨t, hsteps, h⟩ := frame_reaches_header_bytes hs hin hstray hlen hq
  have hshort : t.ser.cnt ≠ t.ser.need := by
    have hcnt := h.cnt
    rw [List.length_cons] at hcnt
    rw [h.need]
    bv_omega
  exact ⟨t, hsteps, { h with short := .inr ⟨.inl rfl, hshort⟩ }⟩

theorem frame_waits_in_tail {kind lo hi : Byte} (hsix : 6 ≤ (hi ++ lo : Half).toNat)
    (hlen : l.length + 4 < (hi ++ lo : Half).toNat)
    (hq : s.rxq = stray ++ ([Config.startMarker, kind, lo, hi] ++ l)) :
    ∃ t, SerSteps (stray.length + (4 + l.length)) s t ∧
      FrameWaits s stray.length ([Config.startMarker, kind, lo, hi] ++ l) .tail t := by
  rw [← List.append_nil l] at hq
  obtain ⟨t, hsteps, h⟩ := frame_reaches_tail_bytes hs hin hstray hsix hlen hq
  have hshort : t.ser.cnt ≠ t.ser.need := by
    intro hfull
    have hcnt := h.cnt
    rw [hfull, h.need] at hcnt
    simp at hcnt
    omega
  exact ⟨t, hsteps, { h with short := .inr ⟨.inr rfl, hshort⟩ }⟩

/-- The phase in which `ser.frame` waits after `k` bytes of a frame (41_frame_scanner.md R145). -/
def phaseAfter (k : Nat) : SerPhase := if k = 0 then .scan else if k < 4 then .header else .tail

/-- A frame of which the channel holds only the first `k` bytes leaves the command waiting for
the next. -/
theorem frame_waits_after {f : List Byte} {k : Nat} (hf : FrameShaped f) (hk : k < f.length)
    (hq : s.rxq = stray ++ f.take k) :
    ∃ t, SerSteps (stray.length + k) s t ∧ FrameWaits s stray.length (f.take k) (phaseAfter k) t := by
  obtain ⟨kind, lo, hi, body, last, rfl, hsize⟩ := hf.parts
  obtain ⟨-, -, hsix⟩ := hf
  match k with
  | 0 => exact frame_waits_in_scan hs hin hstray hq
  | 1 => exact frame_waits_in_header (l := []) hs hin hstray (by simp) hq
  | 2 => exact frame_waits_in_header (l := [kind]) hs hin hstray (by simp) hq
  | 3 => exact frame_waits_in_header (l := [kind, lo]) hs hin hstray (by simp) hq
  | i + 4 =>
    have hlen : ((body ++ [last]).take i).length = i := by
      simp only [List.length_append, List.length_cons, List.length_nil] at hk
      simp only [List.length_take, List.length_append, List.length_cons, List.length_nil]
      omega
    have hphase : phaseAfter (i + 4) = .tail := by simp [phaseAfter]
    rw [hphase]
    obtain ⟨t, hsteps, h⟩ := frame_waits_in_tail (l := (body ++ [last]).take i) hs hin hstray (hsize ▸ hsix)
      (by rw [hlen, hsize]; exact hk) hq
    rw [hlen, Nat.add_comm 4] at hsteps
    exact ⟨t, hsteps, h⟩

end

/-- A waiting `ser.frame` ends with TIMEOUT in its first step at the deadline (60_exceptions.md R201). -/
theorem FrameRuns.timeout {t : State} {p : SerPhase} (h : FrameRuns p t.ser)
    (hshort : p = .scan ∨ (p = .header ∨ p = .tail) ∧ t.ser.cnt ≠ t.ser.need) (hdl : deadlineReached t = true) :
    runMoves [.ser] t = .next (raiseSer .timeout 0 t.serTurn) := by
  rcases hshort with rfl | ⟨rfl | rfl, hshort⟩
  · exact h.serSteps_scan (u := raiseSer .timeout 0 t.serTurn)
      (fun ms => scanStep_of_deadline (s := t.serTurn.place ms) hdl) []
  · exact runMoves_erPhase_cons (u := raiseSer .timeout 0 t.serTurn) h.busy h.cmd h.erPhase_header
      (erStep_of_deadline (s := t.serTurn.place []) hshort hdl)
  · exact runMoves_erPhase_cons (u := raiseSer .timeout 0 t.serTurn) h.busy h.cmd h.erPhase_tail
      (erStep_of_deadline (s := t.serTurn.place []) hshort hdl)

/-- Settles O43: the command waits after the bytes it got, TIME climbs to the deadline, and the next step ends it
there. -/
theorem truncatedFrameTimesOut : Obligations.TruncatedFrameTimesOut := by
  intro s stray f k hs hin hq hstray hf hk
  obtain ⟨hshape, -, -⟩ := hf
  obtain ⟨t, hsteps, h⟩ := frame_waits_after hs hin hstray hshape hk hq
  obtain ⟨a, hclocks⟩ := runMoves_clocks_append (s.ser.dl.toNat - s.now.toNat) [.ser] t
  have hnow : t.ser.dl.toNat ≤ (t.now + BitVec.ofNat 64 (s.ser.dl.toNat - s.now.toNat)).toNat := by
    have hdl := s.ser.dl.isLt
    have hlt := BitVec.lt_def.1 hin.1
    rw [h.now, h.dl, BitVec.toNat_add, BitVec.toNat_ofNat]
    omega
  have hend := FrameRuns.timeout (t := { t with now := t.now + BitVec.ofNat 64 _, turn := a }) h.toFrameRuns h.short
    (deadlineReached_eq_true_iff.2 hnow)
  have htotal : t.ser.total.toNat = k := by rw [h.total, List.length_take, Nat.min_eq_left (Nat.le_of_lt hk)]
  exact ⟨_, (hsteps _).trans (hclocks.trans hend), rfl, rfl, rfl, h.phase, eq_ofNat_of_toNat htotal, h.bytes⟩

end Sys2Proof.Machine

/-! # Proofs: the Conversion Poller (42_conversion_poller.md) -/

namespace Sys2Proof.Machine

open Sys2Proof

/-! ## The ready bit and the scale of a reading -/

/-- Bit 7 of a byte is its top bit, so it says whether the byte is at least 128 (42_conversion_poller.md R163). -/
theorem ready_eq_false_iff {b : Byte} : ready b = false ↔ 128 ≤ b.toNat := by
  rw [ready, Bool.not_eq_false', ← BitVec.msb_eq_getLsbD_last, BitVec.msb_eq_decide, decide_eq_true_iff]

theorem ready_eq_true_iff {b : Byte} : ready b = true ↔ b.toNat < 128 := by
  rw [← Bool.not_eq_false, ready_eq_false_iff, Nat.not_le]

/-- Settles O51: 625 / 10000000 is 1 / 16000, and raw16 is at most 65535. -/
theorem voltsScale : Obligations.VoltsScale := by
  intro r
  have hmax : (r.toNat : Rat) ≤ 65535 := by exact_mod_cast Nat.le_of_lt_succ r.isLt
  have hscale : volts r = (r.toNat : Rat) * (625 / 10000000) := by rw [volts]; ring
  refine ⟨hscale, ?_, ?_⟩
  · rw [hscale]
    positivity
  · rw [hscale]
    linarith

/-! ## The acceptance of a conversion -/

/-- The word of a conversion: MAXR, the selector and the opcode (30_encoding.md R85). -/
def convertWord (m : Half) (sel : Byte) : Word := m ++ (sel ++ (0x01 : Byte))

theorem selField_convertWord (m : Half) (sel : Byte) : selField (convertWord m sel) = sel :=
  (selField_append _ _).trans BitVec.extractLsb'_append_eq_left

/-- An idle BUS engine accepts a legal conversion word (42_conversion_poller.md R160, 43_host_access.md R183). -/
theorem issueBus_convertWord {s : State} {i : Instr} {m : Half} {sel : Byte} (hidle : s.bus.st.busy = false)
    (hd : decode .bus (convertWord m sel) = .ok i) :
    issueBus (convertWord m sel) (convertInit m) s = s.setBus
      { cmd := convertWord m sel
        st := { busy := true, done := false, rej := false, result := .ok, detail := 0 }
        phase := .select, sel := sel, maxr := m, reads := 0, raw16 := 0, stat := 0 } := by
  rw [issueBus_ok _ hidle hd, acceptBus, selField_convertWord]
  rfl

/-- Settles O25: a conversion's word is legal unless MAXR is 0, which fails the argument check. -/
theorem convertIsAccepted : Obligations.ConvertIsAccepted := by
  intro m s ht hidle
  rw [exec, exec, execBusConvertWind_issue m ht, execBusConvertCur_issue m ht]
  refine ⟨fun hm => ⟨congrArg _ ?_, congrArg _ ?_⟩, ?_⟩
  · exact issueBus_convertWord hidle (decodeEncodeRoundTrip (.busConvertWind m) (bne_iff_ne.2 hm))
  · exact issueBus_convertWord hidle (decodeEncodeRoundTrip (.busConvertCur m) (bne_iff_ne.2 hm))
  · rintro rfl
    exact ⟨congrArg _ (issueBus_error (d := .argument) _ hidle rfl),
      congrArg _ (issueBus_error (d := .argument) _ hidle rfl)⟩

/-! ## The engine steps of a conversion -/

/-- A BUS command's engine step is a conversion's, whichever of the two it is and whatever word is latched. -/
theorem exec_bus_engine {i : Instr} {s : State} {a : Option BusAnswer} (hi : i.engine = .bus)
    (ht : s.turn = .engine a) : exec i s = convertStep a s := by
  cases i with
  | serReadn | serFrame => cases hi
  | busConvertWind m => exact execBusConvertWind_engine m ht
  | busConvertCur m => exact execBusConvertCur_engine m ht

theorem convertStep_select {s : State} (a : Option BusAnswer) (hp : s.bus.phase = .select) :
    convertStep a s = .next (selectStep a s) := by
  rw [convertStep, hp]

theorem convertStep_poll {s : State} (a : Option BusAnswer) (hp : s.bus.phase = .poll) :
    convertStep a s = .next (pollStep a s) := by
  rw [convertStep, hp]

/-- Settles O45: in SELECT the engine step of both conversions is `SelectStep()`. -/
theorem selectStepWritesSelector : Obligations.SelectStepWritesSelector := by
  intro m s hp
  have hstep {a : Option BusAnswer} (ht : s.turn = .engine a) :
      exec (.busConvertWind m) s = .next (selectStep a s) ∧ exec (.busConvertCur m) s = .next (selectStep a s) :=
    ⟨(exec_bus_engine rfl ht).trans (convertStep_select a hp),
      (exec_bus_engine rfl ht).trans (convertStep_select a hp)⟩
  exact ⟨fun _ _ _ => hstep, hstep, hstep⟩

section
variable {s : State} {b2 : Byte} (b0 b1 : Byte)

/-- The ready test comes first (42_conversion_poller.md R163, R164). -/
theorem pollStep_of_ready (h : ready b2 = true) :
    pollStep (some (.ok b0 b1 b2)) s = raiseBus .ok 0 ((busPerform .read3 s).setBus (pollRecord b0 b1 b2 s.bus)) :=
  if_pos h

/-- A read that is not ready ends the conversion where it is the last of the budget (42_conversion_poller.md R164). -/
theorem pollStep_of_last (h : ready b2 = false) (hlast : s.bus.reads + 1 = s.bus.maxr) :
    pollStep (some (.ok b0 b1 b2)) s =
      raiseBus .conversionTimeout 0 ((busPerform .read3 s).setBus (pollRecord b0 b1 b2 s.bus)) :=
  (if_neg (by simp [h])).trans (if_pos hlast)

/-- Any other read that is not ready leaves the engine in POLL (42_conversion_poller.md R162). -/
theorem pollStep_of_more (h : ready b2 = false) (hmore : s.bus.reads + 1 ≠ s.bus.maxr) :
    pollStep (some (.ok b0 b1 b2)) s = (busPerform .read3 s).setBus (pollRecord b0 b1 b2 s.bus) :=
  (if_neg (by simp [h])).trans (if_neg hmore)

end

/-- Settles O46: in POLL the engine step of both conversions is `PollStep()`, which tests bit 7 before the budget. -/
theorem pollStepReadsOnce : Obligations.PollStepReadsOnce := by
  intro i m s hi hp
  have hengine : i.engine = .bus := by rcases hi with rfl | rfl <;> rfl
  have hstep {a : Option BusAnswer} (ht : s.turn = .engine a) : exec i s = .next (pollStep a s) :=
    (exec_bus_engine hengine ht).trans (convertStep_poll a hp)
  refine ⟨fun b0 b1 b2 ht => ⟨fun h => ?_, fun h hlast => ?_, fun h hmore => ?_⟩, hstep, hstep⟩
  · exact (hstep ht).trans (congrArg _ (pollStep_of_ready b0 b1 (ready_eq_true_iff.2 h)))
  · exact (hstep ht).trans (congrArg _ (pollStep_of_last b0 b1 (ready_eq_false_iff.2 h) hlast))
  · exact (hstep ht).trans (congrArg _ (pollStep_of_more b0 b1 (ready_eq_false_iff.2 h) hmore))

/-! ## The frame of a BUS command -/

/-- What a BUS engine step leaves alone: the latched command, REJ, and the record of transactions but for the one in
flight (20_memory.md R66, 42_conversion_poller.md R160). -/
structure BusStepFrame (s t : State) : Prop where
  cmd : t.bus.cmd = s.bus.cmd
  sel : t.bus.sel = s.bus.sel
  maxr : t.bus.maxr = s.bus.maxr
  rej : t.bus.st.rej = s.bus.st.rej
  trace : t.busTrace = s.busTrace ∨ ∃ op, inFlight s = some op ∧ t.busTrace = op :: s.busTrace

theorem BusStepFrame.refl (s : State) : BusStepFrame s s := ⟨rfl, rfl, rfl, rfl, .inl rfl⟩

theorem selectStep_frame {s : State} (a : Option BusAnswer) (hb : s.bus.st.busy = true) (hp : s.bus.phase = .select) :
    BusStepFrame s (selectStep a s) := by
  have hfly : inFlight s = some (.write s.bus.sel) := by simp [inFlight, hb, hp]
  match a with
  | none => exact .refl s
  | some .err => exact ⟨rfl, rfl, rfl, rfl, .inr ⟨_, hfly, rfl⟩⟩
  | some (.ok _ _ _) => exact ⟨rfl, rfl, rfl, rfl, .inr ⟨_, hfly, rfl⟩⟩

theorem pollStep_frame {s : State} (a : Option BusAnswer) (hb : s.bus.st.busy = true) (hp : s.bus.phase = .poll) :
    BusStepFrame s (pollStep a s) := by
  have hfly : inFlight s = some .read3 := by simp [inFlight, hb, hp]
  rcases pollStep_cases a s with
      ⟨_, e⟩ | ⟨_, e⟩ | ⟨_, _, _, _, _, e⟩ | ⟨_, _, _, _, _, _, e⟩ | ⟨_, _, _, _, _, _, e⟩ <;>
    rw [e]
  · exact .refl s
  all_goals exact ⟨rfl, rfl, rfl, rfl, .inr ⟨_, hfly, rfl⟩⟩

theorem BusStep.frame {a : Option BusAnswer} {s t : State} (h : BusStep a s t) (hb : s.bus.st.busy = true) :
    BusStepFrame s t := by
  cases h with
  | select hp => exact selectStep_frame a hb hp
  | poll hp => exact pollStep_frame a hb hp

/-- `HostWriteCmd(BUS, w)` changes the BUS engine alone (43_host_access.md R183, R184). -/
theorem issueBus_eq_setBus (w : Word) (init : BusEngine → BusEngine) (s : State) :
    issueBus w init s = s.setBus (issueBus w init s).bus := by
  unfold issueBus
  split
  · rfl
  · split <;> rfl

theorem exec_issue_eq_setBus {i : Instr} {s t : State} (hi : i.engine = .bus) (ht : s.turn = .issue)
    (h : exec i s = .next t) : t = s.setBus t.bus := by
  cases i with
  | serReadn | serFrame => cases hi
  | busConvertWind m =>
    rw [exec, execBusConvertWind_issue m ht] at h
    cases h
    exact issueBus_eq_setBus _ _ s
  | busConvertCur m =>
    rw [exec, execBusConvertCur_issue m ht] at h
    cases h
    exact issueBus_eq_setBus _ _ s

/-- Settles O54: an issue changes the BUS engine alone, and an engine step performs the transaction in flight or
none. -/
theorem busCommandFrame : Obligations.BusCommandFrame := by
  intro i s t hi h
  cases ht : s.turn with
  | issue =>
    have heq := exec_issue_eq_setBus hi ht h
    have hbuf : t.buf = s.buf := heq ▸ rfl
    have htrace : t.busTrace = s.busTrace := heq ▸ rfl
    have honly : OnlyBusChanged s t := heq ▸ OnlyBusChanged.refl s
    exact ⟨honly, fun _ => hbuf ▸ rfl, fun _ => htrace, nofun⟩
  | engine a =>
    have hstep := busStep_of_convertStep ((exec_bus_engine hi ht).symm.trans h)
    obtain ⟨-, -, -, -, hbuf, -⟩ := hstep.onlyBusChanged
    refine ⟨hstep.onlyBusChanged, fun _ => hbuf ▸ rfl, nofun, fun _ _ hb => ?_⟩
    have hf := hstep.frame hb
    exact ⟨hf.cmd, hf.sel, hf.maxr, hf.rej, hf.trace⟩

/-! ## Runs of BUS steps -/

/-- The state in which BUS makes its move: only `turn` differs. -/
def State.busTurn (a : Option BusAnswer) (s : State) : State := { s with turn := .engine a }

section
variable (a : Option BusAnswer) (ms : List Move)

/-- The steps of a conversion do not see which moves are to come. -/
theorem selectStep_place (s : State) : selectStep a (s.place ms) = (selectStep a s).place ms :=
  match a with
  | none => rfl
  | some .err => rfl
  | some (.ok _ _ _) => rfl

theorem pollStep_place (s : State) : pollStep a (s.place ms) = (pollStep a s).place ms := by
  unfold pollStep State.place
  split
  · rfl
  · rfl
  · split
    · rfl
    · split <;> rfl

variable {i : Instr} {s : State} (hb : s.bus.st.busy = true) (hd : decode .bus s.bus.cmd = .ok i)
include hb hd

theorem busMove_of_decode : busMove s = exec i s := by
  simp [busMove, hb, hd]

/-- A busy BUS's move is the engine step of its latched conversion. -/
theorem runMoves_bus_cons {u : State} (h : convertStep a ((s.busTurn a).place ms) = .next (u.place ms)) :
    runMoves (.bus a :: ms) s = runMoves ms u :=
  runMoves_cons <| (busMove_of_decode (s := (s.busTurn a).place ms) hb hd).trans <|
    (exec_eq_convertStep (s := (s.busTurn a).place ms) rfl hd).trans h

theorem runMoves_bus_select (hp : s.bus.phase = .select) :
    runMoves (.bus a :: ms) s = runMoves ms (selectStep a (s.busTurn a)) := by
  apply runMoves_bus_cons a ms hb hd
  rw [convertStep_select (s := (s.busTurn a).place ms) a hp, selectStep_place]

theorem runMoves_bus_poll (hp : s.bus.phase = .poll) :
    runMoves (.bus a :: ms) s = runMoves ms (pollStep a (s.busTurn a)) := by
  apply runMoves_bus_cons a ms hb hd
  rw [convertStep_poll (s := (s.busTurn a).place ms) a hp, pollStep_place]

end

/-! ## A conversion's reads -/

/-- BUSDEV's answer `b` to a read (20_memory.md R66). -/
def okAnswer (b : Byte × Byte × Byte) : Option BusAnswer := some (.ok b.1 b.2.1 b.2.2)

/-- `s` once its conversion has written the selector and made `n` reads; the registers show the response `b`, and
BUSDEV's last answer was `a` (42_conversion_poller.md R161, R162). -/
def State.afterReads (s : State) (n : Nat) (b a : Byte × Byte × Byte) : State :=
  { s with
    bus := { s.bus with phase := .poll, reads := BitVec.ofNat 16 n, raw16 := raw16Of b.1 b.2.1, stat := b.2.2 }
    busTrace := List.replicate n .read3 ++ .write s.bus.sel :: s.busTrace
    turn := .engine (okAnswer a) }

theorem ConvertFacts.decode_ok {e : BusEngine} (h : ConvertFacts e) : ∃ i, decode .bus e.cmd = .ok i := by
  rcases h with ⟨hd, -⟩ | ⟨hd, -⟩ <;> exact ⟨_, hd⟩

/-- A just begun conversion writes its selector in its first step, and its registers show no response yet
(42_conversion_poller.md R161). -/
theorem ConvertBegun.runMoves_select {s : State} (h : ConvertBegun s) (w : Byte × Byte × Byte) (ms : List Move) :
    runMoves (readAnswer w :: ms) s = runMoves ms (s.afterReads 0 (0, 0, 0) w) := by
  obtain ⟨hb, hp, hfacts, hreads, hraw16, hstat⟩ := h
  obtain ⟨i, hd⟩ := hfacts.decode_ok
  have hbus : { s.bus with phase := .poll } = (s.afterReads 0 (0, 0, 0) w).bus := by
    simp [State.afterReads, raw16Of, hreads, hraw16, hstat]
  exact (runMoves_bus_select (okAnswer w) ms hb hd hp).trans
    (congrArg (fun e => runMoves ms ((busPerform (.write s.bus.sel) (s.busTurn (okAnswer w))).setBus e)) hbus)

section
variable {s : State} {i : Instr} {n : Nat} {b a : Byte × Byte × Byte} (r : Byte × Byte × Byte)

/-- One more read performed and recorded. -/
theorem afterReads_succ :
    (busPerform .read3 (s.afterReads n b r)).setBus (pollRecord r.1 r.2.1 r.2.2 (s.afterReads n b r).bus) =
      s.afterReads (n + 1) r r := by
  simp [State.afterReads, State.setBus, busPerform, State.setBusTrace, pollRecord, BitVec.ofNat_add,
    List.replicate_succ]

/-- A read after fewer than MAXR is the last of the budget where it makes the number MAXR. -/
theorem afterReads_last_iff (h : n < s.bus.maxr.toNat) :
    (s.afterReads n b a).bus.reads + 1 = s.bus.maxr ↔ n + 1 = s.bus.maxr.toNat := by
  have hmaxr := s.bus.maxr.isLt
  have hreads : (s.afterReads n b a).bus.reads.toNat = n := Nat.mod_eq_of_lt (by omega)
  bv_omega

variable (ms : List Move) (hb : s.bus.st.busy = true) (hd : decode .bus s.bus.cmd = .ok i)
include hb hd

/-- A polling conversion's next answered move is a poll step. -/
theorem runMoves_read :
    runMoves (readAnswer r :: ms) (s.afterReads n b a) =
      runMoves ms (pollStep (okAnswer r) (s.afterReads n b r)) :=
  runMoves_bus_poll (s := s.afterReads n b a) (okAnswer r) ms hb hd rfl

theorem runMoves_read_ready (hr : ready r.2.2 = true) :
    runMoves (readAnswer r :: ms) (s.afterReads n b a) =
      runMoves ms (raiseBus .ok 0 (s.afterReads (n + 1) r r)) := by
  rw [runMoves_read r ms hb hd, okAnswer, pollStep_of_ready _ _ hr, afterReads_succ]

theorem runMoves_read_last (hr : ready r.2.2 = false) (hlast : n + 1 = s.bus.maxr.toNat) :
    runMoves (readAnswer r :: ms) (s.afterReads n b a) =
      runMoves ms (raiseBus .conversionTimeout 0 (s.afterReads (n + 1) r r)) := by
  have hreads := (afterReads_last_iff (b := b) (a := r) (by omega)).2 hlast
  rw [runMoves_read r ms hb hd, okAnswer, pollStep_of_last _ _ hr hreads, afterReads_succ]

theorem runMoves_read_more (hr : ready r.2.2 = false) (hmore : n + 1 < s.bus.maxr.toNat) :
    runMoves (readAnswer r :: ms) (s.afterReads n b a) = runMoves ms (s.afterReads (n + 1) r r) := by
  have hreads := mt (afterReads_last_iff (b := b) (a := r) (by omega)).1 hmore.ne
  rw [runMoves_read r ms hb hd, okAnswer, pollStep_of_more _ _ hr hreads, afterReads_succ]

/-- Reads that are not ready, fewer than the budget allows, leave the conversion polling. -/
theorem runMoves_reads {l : List (Byte × Byte × Byte)} (hl : ∀ r ∈ l, ready r.2.2 = false)
    (hlen : n + l.length < s.bus.maxr.toNat) :
    ∃ b' a', runMoves (l.map readAnswer ++ ms) (s.afterReads n b a) =
      runMoves ms (s.afterReads (n + l.length) b' a') := by
  induction l generalizing n b a with
  | nil => exact ⟨b, a, rfl⟩
  | cons r l ih =>
    rw [List.length_cons] at hlen
    obtain ⟨hr, hl⟩ := List.forall_mem_cons.1 hl
    obtain ⟨b', a', hrun⟩ := ih (n := n + 1) (b := r) (a := r) hl (by omega)
    rw [Nat.add_right_comm] at hrun
    exact ⟨b', a', (runMoves_read_more r _ hb hd hr (by omega)).trans hrun⟩

end

/-- A just begun conversion whose first reads are not ready and fewer than its budget is still polling after them. -/
theorem ConvertBegun.runMoves_reads {s : State} (h : ConvertBegun s) (w : Byte × Byte × Byte) (ms : List Move)
    {l : List (Byte × Byte × Byte)} (hl : ∀ r ∈ l, 128 ≤ r.2.2.toNat) (hlen : l.length < s.bus.maxr.toNat) :
    ∃ b a, runMoves (readAnswer w :: (l.map readAnswer ++ ms)) s = runMoves ms (s.afterReads l.length b a) := by
  obtain ⟨hb, -, hfacts, -⟩ := id h
  obtain ⟨i, hd⟩ := hfacts.decode_ok
  obtain ⟨b, a, hrun⟩ := Machine.runMoves_reads (n := 0) (b := (0, 0, 0)) (a := w) ms hb hd
    (fun r hr => ready_eq_false_iff.2 (hl r hr)) (by omega)
  rw [Nat.zero_add] at hrun
  exact ⟨b, a, (h.runMoves_select w _).trans hrun⟩

/-- Settles O47: the reads that are not ready are passed by induction on them, and the next one ends the conversion. -/
theorem convertReadsUntilReady : Obligations.ConvertReadsUntilReady := by
  intro s w l b0 b1 b2 h hl hready hlen
  obtain ⟨b, a, hreads⟩ := h.runMoves_reads w [readAnswer (b0, b1, b2)] hl hlen
  obtain ⟨hb, -, hfacts, -⟩ := h
  obtain ⟨i, hd⟩ := hfacts.decode_ok
  have hend := runMoves_read_ready (n := l.length) (b := b) (a := a) (b0, b1, b2) [] hb hd
    (ready_eq_true_iff.2 hready)
  exact ⟨_, hreads.trans (hend.trans (runMoves_nil _)), rfl, rfl, rfl, rfl, rfl⟩

/-- Settles O48: all reads but the last are passed as in O47, and the last one reaches the budget. -/
theorem convertBudgetEnds : Obligations.ConvertBudgetEnds := by
  intro s w l b0 b1 b2 h hl hnot hlast
  obtain ⟨b, a, hreads⟩ := h.runMoves_reads w [readAnswer (b0, b1, b2)] hl (by omega)
  obtain ⟨hb, -, hfacts, -⟩ := h
  obtain ⟨i, hd⟩ := hfacts.decode_ok
  have hend := runMoves_read_last (b := b) (a := a) (b0, b1, b2) [] hb hd (ready_eq_false_iff.2 hnot) hlast
  have hmaxr : BitVec.ofNat 16 (l.length + 1) = s.bus.maxr := (eq_ofNat_of_toNat hlast.symm).symm
  refine ⟨_, hreads.trans (hend.trans (runMoves_nil _)), ?_, rfl, rfl, rfl, rfl⟩
  rw [raiseBus_bus, State.afterReads, hmaxr]
  rfl

end Sys2Proof.Machine

/-! # Proofs: host access, what a step runs and refuses, and the independence of the engines (43_host_access.md) -/

namespace Sys2Proof.Machine

open Sys2Proof

/-! ## The command that a step runs -/

/-- Settles O7: the host's write and a busy engine's move both go to the decoded command. -/
theorem stepRunsDecodedCommand : Obligations.StepRunsDecodedCommand := by
  refine ⟨fun s e w i hm hd => ?_, fun s i hm hb hd => ?_, fun s a i hm hb hd => ?_, fun s m rest hp => ?_,
    fun s hp => ?_⟩
  · rw [step_of_nextMove hm, makeMove_hostWrite_reg, hostWrite_cmdReg, hostWriteCmd, hd]
  · exact (step_of_nextMove hm).trans (serMove_of_decode (by simpa using hb) (by simpa using hd))
  · exact (step_of_nextMove hm).trans (busMove_of_decode (by simpa using hb) (by simpa using hd))
  · simp [nextMove, takeMove, hp]
  · simp [nextMove, takeMove, hp]

/-- The issue of a written command is exec's, in the turn of an issue. -/
theorem step_cmdReg {s : State} {e : Engine} {w : Word} {i : Instr}
    (hm : nextMove s = .hostWrite 32 (cmdReg e).offset w) (hd : decode e w = .ok i) :
    step s = exec i (takeMove s) ∧ (takeMove s).turn = .issue := by
  obtain ⟨hstep, -⟩ := stepRunsDecodedCommand
  exact ⟨hstep s e w i hm hd, by rw [takeMove_turn, hm]; rfl⟩

/-- Settles O26: the step is exec's issue of the command, whose whole next state O23 to O25 give. -/
theorem acceptedCommandHasBegun : Obligations.AcceptedCommandHasBegun := by
  refine ⟨fun s w n hm hidle hd => ?_, fun s w hm hidle hd => ?_, fun s w m hm hidle hd => ?_,
    fun s w m hm hidle hd => ?_⟩
  · obtain ⟨hstep, ht⟩ := step_cmdReg (e := .ser) hm hd
    obtain rfl := encode_of_decode_ser hd
    exact ⟨_, hstep.trans (readnIsAccepted n _ ht (by simpa using hidle)),
      ⟨rfl, rfl, hd, rfl, rfl, rfl, rfl⟩, rfl, rfl⟩
  · obtain ⟨hstep, ht⟩ := step_cmdReg (e := .ser) hm hd
    obtain rfl := encode_of_decode_ser hd
    exact ⟨_, hstep.trans (frameIsAccepted _ ht (by simpa using hidle)),
      ⟨rfl, rfl, hd, rfl, rfl, rfl, rfl, rfl⟩, rfl⟩
  all_goals
    obtain ⟨hstep, ht⟩ := step_cmdReg (e := .bus) hm hd
    obtain ⟨hwf, -⟩ := wellFormed_engine_of_decode_bus hd
    obtain ⟨haccept, -⟩ := convertIsAccepted m (takeMove s) ht (by simpa using hidle)
    obtain ⟨hwind, hcur⟩ := haccept (bne_iff_ne.1 hwf)
    obtain rfl := encode_of_decode_bus hd
  · exact ⟨_, hstep.trans hwind, ⟨rfl, rfl, .inl ⟨hd, rfl⟩, rfl, rfl, rfl⟩, rfl, rfl, rfl⟩
  · exact ⟨_, hstep.trans hcur, ⟨rfl, rfl, .inr ⟨hd, rfl⟩, rfl, rfl, rfl⟩, rfl, rfl, rfl⟩

/-! ## A word written to a busy engine -/

/-- A word written to BUS_CMD has a meaning, whatever the state. -/
theorem step_busCmd {s : State} {w : Word} (h : nextMove s = .hostWrite 32 HostReg.busCmd.offset w) :
    ∃ t, step s = .next t ∧ BusIssue w (takeMove s) t := by
  rw [step_of_nextMove h, makeMove_hostWrite_reg, hostWrite, regAt_offset]
  exact hostWriteCmd_bus w (by rw [takeMove_turn, h]; rfl)

section
variable {w : Word} {s t : State}

theorem SerIssue.eq_of_busy (h : SerIssue w s t) (hb : s.ser.st.busy = true) :
    t = s.setSer { s.ser with st := s.ser.st.reject } := by
  cases h with
  | rejected => rfl
  | illegal idle | readn idle | frame idle => rw [idle] at hb; cases hb

theorem BusIssue.eq_of_busy (h : BusIssue w s t) (hb : s.bus.st.busy = true) :
    t = s.setBus { s.bus with st := s.bus.st.reject } := by
  cases h with
  | rejected => rfl
  | illegal idle | convert idle => rw [idle] at hb; cases hb

/-- Only an idle engine's accept clears REJ (43_host_access.md R184). -/
theorem SerIssue.idle_of_rej (h : SerIssue w s t) (hrej : t.ser.st.rej = false) : s.ser.st.busy = false := by
  cases h with
  | rejected => cases hrej
  | illegal idle | readn idle | frame idle => exact idle

theorem BusIssue.idle_of_rej (h : BusIssue w s t) (hrej : t.bus.st.rej = false) : s.bus.st.busy = false := by
  cases h with
  | rejected => cases hrej
  | illegal idle | convert idle => exact idle

/-- Of all moves only the write of SER_CMD and reset change SER's REJ. -/
theorem MoveEffect.ser_rej {m : Move} (he : MoveEffect m s t) :
    t.ser.st.rej = s.ser.st.rej ∨ m = .reset ∨
    ∃ w, m = .hostWrite 32 HostReg.serCmd.offset w ∧ SerIssue w s t := by
  cases he with
  | serIssue w hm hi => exact .inr (.inr ⟨w, hm, hi⟩)
  | busIssue _ _ hi => exact .inl (by rw [hi.eq_setBus]; rfl)
  | serStep _ _ hs => exact .inl hs.frame.rej
  | busStep _ _ _ hs =>
    obtain ⟨hser, -⟩ := hs.onlyBusChanged
    exact .inl (hser ▸ rfl)
  | reset hm => exact .inr (.inl hm)
  | hostRead | ignored | deadlineLo | deadlineHi | serIdle | busIdle | clock | rxByte | rxErr => exact .inl rfl

/-- Of all moves only the write of BUS_CMD and reset change BUS's REJ. -/
theorem MoveEffect.bus_rej {m : Move} (he : MoveEffect m s t) :
    t.bus.st.rej = s.bus.st.rej ∨ m = .reset ∨
    ∃ w, m = .hostWrite 32 HostReg.busCmd.offset w ∧ BusIssue w s t := by
  cases he with
  | serIssue _ _ hi => exact .inl (by rw [hi.eq_setSer]; rfl)
  | busIssue w hm hi => exact .inr (.inr ⟨w, hm, hi⟩)
  | serStep _ _ hs =>
    obtain ⟨hbus, -⟩ := hs.onlySerChanged
    exact .inl (hbus ▸ rfl)
  | busStep _ _ busy hs => exact .inl (hs.frame busy).rej
  | reset hm => exact .inr (.inl hm)
  | hostRead | ignored | deadlineLo | deadlineHi | serIdle | busIdle | clock | rxByte | rxErr => exact .inl rfl

end

/-- Settles O21: a busy engine's CMD write is its reject, and of the moves that change REJ only reset and an accept
clear it. -/
theorem commandWhileBusyIsIgnored : Obligations.CommandWhileBusyIsIgnored := by
  refine ⟨fun s w hm hb => ?_, fun s w hm hb => ?_, fun s t hstep hrej hclear => ?_, fun s t hstep hrej hclear => ?_⟩
  · obtain ⟨t, hstep, hi⟩ := step_serCmd hm
    rw [hstep, hi.eq_of_busy (by simpa using hb), takeMove_ser]
    rfl
  · obtain ⟨t, hstep, hi⟩ := step_busCmd hm
    rw [hstep, hi.eq_of_busy (by simpa using hb), takeMove_bus]
    rfl
  · rcases (step_effect hstep).ser_rej with hsame | hm | ⟨w, hm, hi⟩
    · simp [hrej, hclear] at hsame
    · exact .inl hm
    · exact .inr ⟨by simpa using hi.idle_of_rej hclear, w, hm⟩
  · rcases (step_effect hstep).bus_rej with hsame | hm | ⟨w, hm, hi⟩
    · simp [hrej, hclear] at hsame
    · exact .inl hm
    · exact .inr ⟨by simpa using hi.idle_of_rej hclear, w, hm⟩

/-! ## What a HOST read returns -/

theorem regAt_eq_none {off : Offset} (h : ∀ r : HostReg, off ≠ r.offset) : regAt off = none := by
  cases hr : regAt off with
  | none => rfl
  | some r => exact absurd (offset_of_regAt hr) (h r)

/-- An unmapped offset below the window reads 0 (43_host_access.md R185). -/
theorem hostReadValue_unmapped {s : State} {off : Offset} (hlow : off.toNat < windowBase)
    (h : ∀ r : HostReg, off ≠ r.offset) : hostReadValue s off = 0 := by
  rw [hostReadValue, if_neg (Nat.not_le.2 hlow), regAt_eq_none h]

theorem hostReadValue_window {s : State} {off : Offset} (h : windowBase ≤ off.toNat) :
    hostReadValue s off = BitVec.ofNat 32 (s.buf.memRead (off.toNat - windowBase) 4) := if_pos h

/-- The bytes of a word read from the buffer, the first lowest (20_memory.md R61, R62). -/
theorem FrameBuf.memRead_four_bytes (b : FrameBuf) (a : Nat) :
    (BitVec.ofNat 32 (b.memRead a 4)).extractLsb' 0 8 = b.byte a ∧
    (BitVec.ofNat 32 (b.memRead a 4)).extractLsb' 8 8 = b.byte (a + 1) ∧
    (BitVec.ofNat 32 (b.memRead a 4)).extractLsb' 16 8 = b.byte (a + 2) ∧
    (BitVec.ofNat 32 (b.memRead a 4)).extractLsb' 24 8 = b.byte (a + 3) := by
  have h0 := (b.byte a).isLt
  have h1 := (b.byte (a + 1)).isLt
  have h2 := (b.byte (a + 2)).isLt
  have h3 := (b.byte (a + 3)).isLt
  refine ⟨?_, ?_, ?_, ?_⟩ <;> apply BitVec.eq_of_toNat_eq <;>
    rw [field_toNat, BitVec.toNat_ofNat, FrameBuf.memRead_four] <;> omega

/-- Which moves are to come is no part of what the host reads. -/
theorem hostReadValue_takeMove (s : State) (off : Offset) : hostReadValue (takeMove s) off = hostReadValue s off := by
  have hreg (r : HostReg) : regValue (takeMove s) r = regValue s r := by cases r <;> simp [regValue]
  simp [hostReadValue, hreg]

/-- Settles O18: the value read is the window's word, the register's or 0, by the offset. -/
theorem hostReadReturnsLiveValue : Obligations.HostReadReturnsLiveValue := by
  intro s off hm halign
  refine ⟨hostReadValue s off, ?_, ?_, fun hwin => ?_, hostReadValue_unmapped⟩
  · rw [step_of_nextMove hm, makeMove, hostAccess_aligned _ halign, hostReadValue_takeMove]
  · rintro r rfl
    exact hostReadValue_reg r s
  · rw [hostReadValue_window hwin]
    exact s.buf.memRead_four_bytes _

/-! ## HOST accesses that change nothing, and those that are refused -/

/-- A HOST write anywhere but at the four writable registers is ignored (43_host_access.md R185). -/
theorem hostWrite_ignored {off : Offset} (v : Word) (s : State)
    (hro : ∀ r ∈ [HostReg.serCmd, .serDeadlineLo, .serDeadlineHi, .busCmd], off ≠ r.offset) :
    hostWrite off v s = .next s := by
  cases hr : regAt off with
  | none => rw [hostWrite, hr]
  | some r =>
    have hoff := offset_of_regAt hr
    rw [hostWrite, hr]
    cases r with
    | serCmd | serDeadlineLo | serDeadlineHi | busCmd => exact absurd hoff (hro _ (by simp))
    | serStatus | serCount | serTotal | serDiscard | serFrameInfo | serCheck | busStatus | busResult | busReads
      | timeLo | timeHi => rfl

/-- Settles O19: the host's write is ignored outside the four writable registers. -/
theorem otherWritesIgnored : Obligations.OtherWritesIgnored := by
  refine ⟨fun s off v hm halign hcmd hlo hhi hbus => ?_, fun _ _ => hostReadValue_unmapped⟩
  rw [step_of_nextMove hm, makeMove, hostAccess_aligned _ halign]
  exact hostWrite_ignored v _ (by simpa using ⟨hcmd, hlo, hhi, hbus⟩)

/-- An access with a meaning is refused exactly for its width or its offset (43_host_access.md R186). -/
theorem hostAccess_refused_iff {bits : Nat} {off : Offset} {access : Host.Outcome State Fault Refusal}
    (h : ∃ t, access = .next t) :
    (∃ r, hostAccess bits off access = .refused r) ↔ bits ≠ 32 ∨ off.toNat % 4 ≠ 0 := by
  obtain ⟨t, rfl⟩ := h
  by_cases hbits : bits = 32
  · by_cases halign : off.toNat % 4 = 0 <;> simp [hostAccess, aligned, hbits, halign]
  · simp [hostAccess, hbits]

/-- A command is performed or faults: every one is modelled. -/
theorem exec_ne_refused (i : Instr) (s : State) (r : Refusal) : exec i s ≠ .refused r := by
  have hconvert (a : Option BusAnswer) : convertStep a s ≠ .refused r := by
    unfold convertStep
    split <;> nofun
  cases i with
  | serReadn n =>
    cases ht : s.turn with
    | issue => rw [exec, execSerReadn_issue n ht]; nofun
    | engine a => cases hp : s.ser.phase <;> simp [exec, execSerReadn, ht, hp]
  | serFrame =>
    cases ht : s.turn with
    | issue => rw [exec, execSerFrame_issue ht]; nofun
    | engine a => cases hp : s.ser.phase <;> simp [exec, execSerFrame, ht, hp]
  | busConvertWind m =>
    cases ht : s.turn with
    | issue => rw [exec, execBusConvertWind_issue m ht]; nofun
    | engine a => rw [exec, execBusConvertWind_engine m ht]; exact hconvert a
  | busConvertCur m =>
    cases ht : s.turn with
    | issue => rw [exec, execBusConvertCur_issue m ht]; nofun
    | engine a => rw [exec, execBusConvertCur_engine m ht]; exact hconvert a

theorem serMove_ne_refused (s : State) (r : Refusal) : serMove s ≠ .refused r := by
  unfold serMove
  split
  · split
    · exact exec_ne_refused _ s r
    · nofun
  · nofun

theorem busMove_ne_refused (s : State) (r : Refusal) : busMove s ≠ .refused r := by
  unfold busMove
  split
  · split
    · exact exec_ne_refused _ s r
    · nofun
  · nofun

/-- Settles O15: a HOST access with the right shape has a meaning, and no other move refuses. -/
theorem onlyMisshapenAccessesRefused : Obligations.OnlyMisshapenAccessesRefused := by
  intro s
  have ht := takeMove_turn s
  rw [step]
  generalize nextMove s = m at ht ⊢
  cases m with
  | hostRead bits off => simpa [makeMove] using hostAccess_refused_iff ⟨_, rfl⟩
  | hostWrite bits off v => simpa [makeMove] using hostAccess_refused_iff (hostWrite_next off v ht)
  | ser => simp [makeMove, serMove_ne_refused]
  | bus => simp [makeMove, busMove_ne_refused]
  | clock | rxByte | rxErr | reset => simp [makeMove]

/-! ## The engines' independence -/

/-- `o` with what a SER engine step reads and writes taken from `s` (10_state.md R39; 40_exact_reader.md R111,
41_frame_scanner.md R131). -/
def State.serOver (s o : State) : State :=
  { o with ser := s.ser, buf := s.buf, rxq := s.rxq, rxErr := s.rxErr, now := s.now }

/-- `o` with what a BUS engine step reads and writes taken from `s` (10_state.md R40; 42_conversion_poller.md R161,
R162). -/
def State.busOver (s o : State) : State :=
  { o with bus := s.bus, busTrace := s.busTrace }

theorem OnlySerChanged.eq_serOver {s t : State} (h : OnlySerChanged s t) : t.serOver s = t := by
  obtain ⟨hbus, hlo, hhi, -, -, -, htrace, hv, hturn, hpending, hcount⟩ := h
  simp only [State.serOver, ← hbus, ← hlo, ← hhi, ← htrace, ← hv, ← hturn, ← hpending, ← hcount]

theorem OnlyBusChanged.eq_busOver {s t : State} (h : OnlyBusChanged s t) : t.busOver s = t := by
  obtain ⟨hser, hlo, hhi, hnow, hbuf, hrxq, hrxErr, hv, hturn, hpending, hcount⟩ := h
  simp only [State.busOver, ← hser, ← hlo, ← hhi, ← hnow, ← hbuf, ← hrxq, ← hrxErr, ← hv, ← hturn, ← hpending,
    ← hcount]

section
variable (s o : State)

theorem scanStep_serOver : scanStep (s.serOver o) = (scanStep s).serOver o := by
  rcases scanStep_cases s with
      ⟨hd, e⟩ | ⟨hd, he, e⟩ | ⟨hd, he, hq, e⟩ | ⟨rest, hd, he, hq, e⟩ | ⟨b, rest, hd, he, hq, hb, e⟩ <;>
    rw [e]
  · exact scanStep_of_deadline (s := s.serOver o) hd
  · exact scanStep_of_rxErr (s := s.serOver o) hd he
  all_goals have hin : InTime (s.serOver o) := inTime_iff.2 ⟨deadlineReached_eq_false_iff.1 hd, he⟩
  · exact scanStep_of_empty hin hq
  · exact scanStep_of_start hin hq
  · exact scanStep_of_stray hin hq hb

theorem erStep_serOver {done : State → State} (hdone : ∀ t : State, done (t.serOver o) = (done t).serOver o) :
    erStep done (s.serOver o) = (erStep done s).serOver o := by
  rcases erStep_cases done s with
      ⟨hc, e⟩ | ⟨hc, hd, e⟩ | ⟨hc, hd, he, e⟩ | ⟨hc, hd, he, hq, e⟩ | ⟨b, rest, hc, hd, he, hq, hlast, e⟩ |
      ⟨b, rest, hc, hd, he, hq, hmore, e⟩ <;>
    rw [e]
  · exact (erStep_of_complete (s := s.serOver o) hc).trans (hdone s)
  · exact erStep_of_deadline (s := s.serOver o) hc hd
  · exact erStep_of_rxErr (s := s.serOver o) hc hd he
  all_goals have hin : InTime (s.serOver o) := inTime_iff.2 ⟨deadlineReached_eq_false_iff.1 hd, he⟩
  · exact erStep_of_empty hc hin hq
  · exact (erStep_of_cons (s := s.serOver o) hc hin hq).trans ((if_pos hlast).trans (hdone (erStore b (s.setRxq rest))))
  · exact (erStep_of_cons (s := s.serOver o) hc hin hq).trans (if_neg hmore)

theorem headerDone_serOver : headerDone (s.serOver o) = (headerDone s).serOver o := by
  unfold headerDone State.serOver
  split <;> rfl

theorem tailDone_serOver : tailDone (s.serOver o) = (tailDone s).serOver o := by
  unfold tailDone State.serOver
  split
  · rfl
  · split <;> rfl

theorem selectStep_busOver (a : Option BusAnswer) : selectStep a (s.busOver o) = (selectStep a s).busOver o :=
  match a with
  | none => rfl
  | some .err => rfl
  | some (.ok _ _ _) => rfl

theorem pollStep_busOver (a : Option BusAnswer) : pollStep a (s.busOver o) = (pollStep a s).busOver o := by
  unfold pollStep State.busOver
  split
  · rfl
  · rfl
  · split
    · rfl
    · split <;> rfl

end

/-- The SER engine step is the same whatever the state holds that SER does not see. -/
theorem SerStep.over {s t : State} (h : SerStep s t) (o : State) : SerStep (s.serOver o) (t.serOver o) := by
  cases h with
  | scan hd hp => exact scanStep_serOver s o ▸ .scan hd hp
  | header hd hp => exact erStep_serOver s o (headerDone_serOver · o) ▸ .header hd hp
  | tail hd hp => exact erStep_serOver s o (tailDone_serOver · o) ▸ .tail hd hp
  | readn n hd hp => exact erStep_serOver s o (done := readnDone) (fun _ => rfl) ▸ .readn n hd hp

/-- The BUS engine step is the same whatever the state holds that BUS does not see. -/
theorem BusStep.over {a : Option BusAnswer} {s t : State} (h : BusStep a s t) (o : State) :
    BusStep a (s.busOver o) (t.busOver o) := by
  cases h with
  | select hp => exact selectStep_busOver s o a ▸ .select hp
  | poll hp => exact pollStep_busOver s o a ▸ .poll hp

/-- A busy SER's move is its engine step, an idle SER's changes nothing (60_exceptions.md R215). -/
theorem serMove_eq_next_iff {a : Option BusAnswer} {s t : State} (ht : s.turn = .engine a) :
    serMove s = .next t ↔ (s.ser.st.busy = false ∧ t = s) ∨ (s.ser.st.busy = true ∧ SerStep s t) := by
  constructor
  · intro h
    unfold serMove at h
    split at h <;> rename_i hb
    · split at h
      · exact .inr ⟨hb, serStep_of_exec ht ‹_› h⟩
      · cases h
    · cases h
      exact .inl ⟨by simpa using hb, rfl⟩
  · rintro (⟨hb, rfl⟩ | ⟨hb, h⟩)
    · simp [serMove, hb]
    · cases h with
      | scan hd hp => exact (serMove_of_decode hb hd).trans (execSerFrame_scan ht hp)
      | header hd hp => exact (serMove_of_decode hb hd).trans (execSerFrame_header ht hp)
      | tail hd hp => exact (serMove_of_decode hb hd).trans (execSerFrame_tail ht hp)
      | readn n hd hp => exact (serMove_of_decode hb hd).trans (execSerReadn_engine n ht hp)

/-- The same for BUS, whose word must be a conversion's. -/
theorem busMove_eq_next_iff {a : Option BusAnswer} {s t : State} (ht : s.turn = .engine a) :
    busMove s = .next t ↔ (s.bus.st.busy = false ∧ t = s) ∨
      (s.bus.st.busy = true ∧ (∃ i, decode .bus s.bus.cmd = .ok i) ∧ BusStep a s t) := by
  constructor
  · intro h
    unfold busMove at h
    split at h <;> rename_i hb
    · split at h
      · exact .inr ⟨hb, ⟨_, ‹_›⟩, busStep_of_exec ht ‹_› h⟩
      · cases h
    · cases h
      exact .inl ⟨by simpa using hb, rfl⟩
  · rintro (⟨hb, rfl⟩ | ⟨hb, ⟨i, hd⟩, h⟩)
    · simp [busMove, hb]
    · rw [busMove_of_decode hb hd, exec_eq_convertStep ht hd]
      cases h with
      | select hp => exact convertStep_select a hp
      | poll hp => exact convertStep_poll a hp

section
variable {s t o : State} {a : Option BusAnswer}

/-- SER's move changes only its own side of the state. -/
theorem serMove_onlySerChanged (ht : s.turn = .engine a) (h : serMove s = .next t) : OnlySerChanged s t := by
  rcases (serMove_eq_next_iff ht).1 h with ⟨_, rfl⟩ | ⟨_, hs⟩
  · exact .refl t
  · exact hs.onlySerChanged

theorem busMove_onlyBusChanged (ht : s.turn = .engine a) (h : busMove s = .next t) : OnlyBusChanged s t := by
  rcases (busMove_eq_next_iff ht).1 h with ⟨_, rfl⟩ | ⟨_, _, hs⟩
  · exact .refl t
  · exact hs.onlyBusChanged

/-- SER's move depends only on its own side of the state. -/
theorem serMove_serOver {a' : Option BusAnswer} (ht : s.turn = .engine a) (ho : o.turn = .engine a')
    (h : serMove s = .next t) : serMove (s.serOver o) = .next (t.serOver o) := by
  refine (serMove_eq_next_iff (s := s.serOver o) ho).2 ?_
  rcases (serMove_eq_next_iff ht).1 h with ⟨hb, rfl⟩ | ⟨hb, hs⟩
  · exact .inl ⟨hb, rfl⟩
  · exact .inr ⟨hb, hs.over o⟩

/-- BUS's move depends only on its own side of the state and on BUSDEV's answer. -/
theorem busMove_busOver (ht : s.turn = .engine a) (ho : o.turn = .engine a) (h : busMove s = .next t) :
    busMove (s.busOver o) = .next (t.busOver o) := by
  refine (busMove_eq_next_iff (s := s.busOver o) ho).2 ?_
  rcases (busMove_eq_next_iff ht).1 h with ⟨hb, rfl⟩ | ⟨hb, hd, hs⟩
  · exact .inl ⟨hb, rfl⟩
  · exact .inr ⟨hb, hd, hs.over o⟩

end

theorem takeMove_setBus (s : State) (e : BusEngine) : takeMove (s.setBus e) = (takeMove s).setBus e := by
  cases hp : s.pending <;> simp [takeMove, hp, State.setBus]

theorem takeMove_setSer (s : State) (e : SerEngine) : takeMove (s.setSer e) = (takeMove s).setSer e := by
  cases hp : s.pending <;> simp [takeMove, hp, State.setSer]

/-- Settles O59: an engine's move reads and changes only its own side of the state, which the other engine is no part
of. -/
theorem enginesShareOnlyTime : Obligations.EnginesShareOnlyTime := by
  refine ⟨fun s t e hm hstep => ?_, fun s t e a hm hstep => ?_⟩
  · have ht : (takeMove s).turn = .engine none := (takeMove_turn s).trans (congrArg Move.turn hm)
    rw [step_of_nextMove hm] at hstep
    rw [step_of_nextMove (s := s.setBus e) hm, takeMove_setBus]
    have hover : t.serOver ((takeMove s).setBus e) = t.setBus e :=
      congrArg (State.setBus · e) (serMove_onlySerChanged ht hstep).eq_serOver
    exact hover ▸ serMove_serOver (o := (takeMove s).setBus e) ht ht hstep
  · have ht : (takeMove s).turn = .engine a := (takeMove_turn s).trans (congrArg Move.turn hm)
    rw [step_of_nextMove hm] at hstep
    rw [step_of_nextMove (s := s.setSer e) hm, takeMove_setSer]
    have hover : t.busOver ((takeMove s).setSer e) = t.setSer e :=
      congrArg (State.setSer · e) (busMove_onlyBusChanged ht hstep).eq_busOver
    exact hover ▸ busMove_busOver (o := (takeMove s).setSer e) ht ht hstep

/-! ## A SER step and a BUS step, in either order -/

/-- A run of `k + 1` steps that answers has made a first step. -/
theorem coreRun_succ_eq_next {M : Host.Core} {s t : M.State} {k : Nat} (h : M.run (k + 1) s = .next t) :
    ∃ u, M.step s = .next u ∧ M.run k u = .next t := by
  rw [Host.Core.run] at h
  split at h
  · exact ⟨_, ‹_›, h⟩
  · cases h
  · cases h

/-- The state in which a placed move `m` is made, with `rest` still to come. -/
def State.making (m : Move) (rest : List Move) (s : State) : State :=
  { s with pending := rest, turn := m.turn }

/-- A run of two placed moves, the first of which leaves the moves to come, makes both. -/
theorem runMoves_pair_eq_next_iff {m n : Move} {s t : State}
    (hkeep : ∀ u, makeMove m (s.making m (n :: s.pending)) = .next u → u.pending = n :: s.pending) :
    runMoves [m, n] s = .next t ↔
      ∃ u, makeMove m (s.making m (n :: s.pending)) = .next u ∧ makeMove n (u.making n s.pending) = .next t := by
  have hfirst : step (s.place [m, n]) = makeMove m (s.making m (n :: s.pending)) := step_placed rfl
  constructor
  · intro h
    obtain ⟨u, hu, h⟩ := coreRun_succ_eq_next (M := core) h
    obtain ⟨v, hv, h⟩ := coreRun_succ_eq_next (M := core) h
    cases h
    have hu := hfirst.symm.trans hu
    exact ⟨u, hu, (step_placed (hkeep u hu)).symm.trans hv⟩
  · rintro ⟨u, hu, ht⟩
    have hsecond : step u = .next t := (step_placed (hkeep u hu)).trans ht
    exact (coreRun_succ (M := core) 1 (hfirst.trans hu)).trans (coreRun_succ (M := core) 0 hsecond)

/-- The run of a SER and a BUS move makes both, whichever comes first. -/
theorem runMoves_ser_bus_iff {s t : State} {a : Option BusAnswer} :
    runMoves [.ser, .bus a] s = .next t ↔
      ∃ u, serMove (s.making .ser (.bus a :: s.pending)) = .next u ∧
        busMove (u.making (.bus a) s.pending) = .next t := by
  refine runMoves_pair_eq_next_iff fun u hu => ?_
  obtain ⟨-, -, -, -, -, -, -, -, -, hpending, -⟩ := serMove_onlySerChanged rfl hu
  exact hpending

theorem runMoves_bus_ser_iff {s t : State} {a : Option BusAnswer} :
    runMoves [.bus a, .ser] s = .next t ↔
      ∃ u, busMove (s.making (.bus a) (.ser :: s.pending)) = .next u ∧
        serMove (u.making .ser s.pending) = .next t := by
  refine runMoves_pair_eq_next_iff fun u hu => ?_
  obtain ⟨-, -, -, -, -, -, -, -, -, hpending, -⟩ := busMove_onlyBusChanged rfl hu
  exact hpending

/-- Settles O58: each engine's move is the same before and after the other's, which changes nothing that it sees. -/
theorem engineStepsCommute : Obligations.EngineStepsCommute := by
  intro s t a h
  obtain ⟨u, hser, hbus⟩ := runMoves_ser_bus_iff.1 h
  have hu := (serMove_onlySerChanged rfl hser).eq_serOver
  have ht := (busMove_onlyBusChanged rfl hbus).eq_busOver
  have hbusFirst := busMove_busOver (o := s.making (.bus a) (.ser :: s.pending)) rfl rfl hbus
  have hserSecond := serMove_serOver
    (o := (t.busOver (s.making (.bus a) (.ser :: s.pending))).making .ser s.pending) rfl rfl hser
  rw [← hu] at hbusFirst
  refine runMoves_bus_ser_iff.2 ⟨_, hbusFirst, ?_⟩
  rw [← ht, ← hu]
  exact hserSecond

end Sys2Proof.Machine

/-! # Proofs: how a command ends, and the words that are no command (60_exceptions.md) -/

namespace Sys2Proof.Machine

open Sys2Proof

/-- The part of a command that the next move performs is the one to perform when it is made. -/
theorem turn_of_nextMove {s : State} {m : Move} (hm : nextMove s = m) : (takeMove s).turn = m.turn := by
  rw [takeMove_turn, hm]

/-! ## Ending a command -/

/-- `raise` writes RESULT and DETAIL, clears BUSY, sets DONE and keeps REJ (60_exceptions.md R203). -/
theorem raiseSer_eq (r : Result) (d : BitVec 2) (s : State) :
    raiseSer r d s = s.setSer
      { s.ser with st := { busy := false, done := true, rej := s.ser.st.rej, result := r, detail := d } } := rfl

theorem raiseBus_eq (r : Result) (d : BitVec 2) (s : State) :
    raiseBus r d s = s.setBus
      { s.bus with st := { busy := false, done := true, rej := s.bus.st.rej, result := r, detail := d } } := rfl

/-- Settles O27: `raise` updates the status alone, and an idle engine's move is none. -/
theorem raiseEndsTheCommand : Obligations.RaiseEndsTheCommand := by
  refine ⟨fun r d s => ⟨raiseSer_eq r d s, raiseBus_eq r d s⟩, fun s hm hidle => ?_, fun s a hm hidle => ?_⟩
  · have ht : (takeMove s).turn = .engine none := turn_of_nextMove hm
    exact (step_of_nextMove hm).trans ((serMove_eq_next_iff ht).2 (.inl ⟨by simpa using hidle, rfl⟩))
  · have ht : (takeMove s).turn = .engine a := turn_of_nextMove hm
    exact (step_of_nextMove hm).trans ((busMove_eq_next_iff ht).2 (.inl ⟨by simpa using hidle, rfl⟩))

/-! ## A SER command that waits for a byte -/

/-- The next engine step of the SER command `i` would take a byte: SCAN always, the Exact Reader's phases while COUNT is
short of NEED (40_exact_reader.md R111, 41_frame_scanner.md R131). -/
def WaitsForByte (i : Instr) (e : SerEngine) : Prop :=
  (∃ n, i = .serReadn n) ∧ e.phase = .readn ∧ e.cnt ≠ e.need ∨
  i = .serFrame ∧ e.phase = .scan ∨
  i = .serFrame ∧ (e.phase = .header ∨ e.phase = .tail) ∧ e.cnt ≠ e.need

section
variable {i : Instr} {s : State}

/-- Before it takes a byte the engine step tests the deadline and then the channel's error, in every phase
(60_exceptions.md R201, R202). -/
theorem WaitsForByte.exec_ends {a : Option BusAnswer} (h : WaitsForByte i s.ser) (ht : s.turn = .engine a) :
    (s.ser.dl.toNat ≤ s.now.toNat → exec i s = .next (raiseSer .timeout 0 s)) ∧
    (s.now.toNat < s.ser.dl.toNat → s.rxErr = true → exec i s = .next (raiseSer .ioError 0 s)) := by
  obtain ⟨-, hscan⟩ := scanStepOrder
  rcases h with ⟨hi, hp, hshort⟩ | ⟨rfl, hp⟩ | ⟨rfl, hp | hp, hshort⟩
  · obtain ⟨-, hdl, herr, -⟩ := exactReaderStepOrder i readnDone s a ht (.inl ⟨hi, hp, rfl⟩)
    exact ⟨hdl hshort, herr hshort⟩
  · obtain ⟨hdl, herr, -⟩ := hscan s a ht hp
    exact ⟨hdl, herr⟩
  · obtain ⟨-, hdl, herr, -⟩ := exactReaderStepOrder _ headerDone s a ht (.inr (.inl ⟨rfl, hp, rfl⟩))
    exact ⟨hdl hshort, herr hshort⟩
  · obtain ⟨-, hdl, herr, -⟩ := exactReaderStepOrder _ tailDone s a ht (.inr (.inr ⟨rfl, hp, rfl⟩))
    exact ⟨hdl hshort, herr hshort⟩

/-- The same tests, as the step in which a busy SER moves. -/
theorem WaitsForByte.step_ends (h : WaitsForByte i s.ser) (hm : nextMove s = .ser) (hb : s.ser.st.busy = true)
    (hd : decode .ser s.ser.cmd = .ok i) :
    (s.ser.dl.toNat ≤ s.now.toNat → step s = .next (raiseSer .timeout 0 (takeMove s))) ∧
    (s.now.toNat < s.ser.dl.toNat → s.rxErr = true → step s = .next (raiseSer .ioError 0 (takeMove s))) := by
  obtain ⟨-, hstep, -⟩ := stepRunsDecodedCommand
  have ht : (takeMove s).turn = .engine none := turn_of_nextMove hm
  rw [hstep s i hm hb hd]
  simpa using WaitsForByte.exec_ends (s := takeMove s) (by simpa using h) ht

end

/-- Settles O32: the deadline is the first test of a step that would take a byte. -/
theorem deadlineEndsTheWait : Obligations.DeadlineEndsTheWait := by
  intro s i hm hb hd hdl hwait
  obtain ⟨htimeout, -⟩ := WaitsForByte.step_ends hwait hm hb hd
  rw [htimeout hdl, raiseSer_eq, takeMove_ser]

/-! ## A BUS command whose transaction fails -/

/-- The transaction in flight is the selector write in SELECT and the read in POLL (20_memory.md R66). -/
theorem inFlight_eq_some_iff {s : State} {op : BusOp} :
    inFlight s = some op ↔ s.bus.st.busy = true ∧
      (s.bus.phase = .select ∧ op = .write s.bus.sel ∨ s.bus.phase = .poll ∧ op = .read3) := by
  cases hb : s.bus.st.busy <;> cases hp : s.bus.phase <;> simp [inFlight, hb, hp, eq_comm]

/-- A conversion performs the transaction in flight and ends with IO_ERROR when BUSDEV answers ERR, in SELECT and in
POLL (42_conversion_poller.md R168). -/
theorem convertStep_err {s : State} {op : BusOp} (h : inFlight s = some op) :
    convertStep (some .err) s = .next (raiseBus .ioError 0 (busPerform op s)) := by
  obtain ⟨-, ⟨hp, rfl⟩ | ⟨hp, rfl⟩⟩ := inFlight_eq_some_iff.1 h
  · exact convertStep_select _ hp
  · exact convertStep_poll _ hp

/-- Settles O33: the channel's error is the second test of a step that would take a byte, and ERR ends the transaction
in flight, whichever it is. -/
theorem channelOrBusErrorEndsTheCommand : Obligations.ChannelOrBusErrorEndsTheCommand := by
  refine ⟨fun s i hm hb hd hnow he hwait => ?_, fun s i op hm hd hop => ?_⟩
  · obtain ⟨-, herr⟩ := WaitsForByte.step_ends hwait hm hb hd
    rw [herr (BitVec.lt_def.1 hnow) he, raiseSer_eq, takeMove_ser]
  · obtain ⟨hb, -⟩ := inFlight_eq_some_iff.1 hop
    obtain ⟨-, -, hstep, -⟩ := stepRunsDecodedCommand
    have ht : (takeMove s).turn = .engine (some .err) := turn_of_nextMove hm
    have hfly : inFlight (takeMove s) = some op := by simpa [inFlight] using hop
    rw [hstep s _ i hm hb hd, exec_eq_convertStep ht (by simpa using hd), convertStep_err hfly, raiseBus_eq]
    simp [busPerform]

/-! ## A word that is no command -/

/-- The DETAIL of an illegal word of SER_CMD: OP is checked before the reserved bits (30_encoding.md R86). -/
theorem detail_of_decodeSer_error {w : Word} {d : CmdError} (h : decode .ser w = .error d) :
    d.detail = if opField w ≠ 1 ∧ opField w ≠ 2 then 0 else 1 := by
  simp only [decode, decodeSer] at h
  split at h <;> rename_i hreadn
  · split at h <;> cases h
    exact (if_neg fun hop => hop.1 hreadn).symm
  · split at h <;> rename_i hframe
    · split at h <;> cases h
      exact (if_neg fun hop => hop.2 hframe).symm
    · cases h
      exact (if_pos ⟨hreadn, hframe⟩).symm

/-- The DETAIL of an illegal word of BUS_CMD: OP, then the reserved bits, then MAXR and SEL (30_encoding.md R86). -/
theorem detail_of_decodeBus_error {w : Word} {d : CmdError} (h : decode .bus w = .error d) :
    d.detail = if opField w ≠ 1 then 0 else if busRsvdField w ≠ 0 then 1 else 2 := by
  simp only [decode, decodeBus] at h
  split at h <;> rename_i hop
  · cases h
    exact (if_pos hop).symm
  · rw [if_neg hop]
    split at h <;> rename_i hrsvd
    · cases h
      exact (if_pos hrsvd).symm
    · rw [if_neg hrsvd]
      split at h
      · cases h
        rfl
      · split at h
        · cases h
        · split at h <;> cases h
          rfl

/-- A word that matches no row of SER_CMD is illegal there (30_encoding.md R84). -/
theorem decodeSer_error_of_no_row {w : Word} (h : ¬ (w.extractLsb' 0 16 = (0x0001 : Half) ∨ w = 0x00000002)) :
    ∃ d, decode .ser w = .error d := by
  cases hd : decode .ser w with
  | error d => exact ⟨d, rfl⟩
  | ok i =>
    refine absurd ?_ h
    rcases decodeSer_ok hd with rfl | rfl
    · obtain ⟨hreadn, -⟩ := opcodeMap w (argField w)
      obtain ⟨hlow, -⟩ := hreadn.1 hd
      exact .inl hlow
    · exact .inr (encode_of_decode_ser hd).symm

/-- A word that matches no row of BUS_CMD is illegal there (30_encoding.md R85). -/
theorem decodeBus_error_of_no_row {w : Word}
    (h : ¬ ((w.extractLsb' 0 16 = (0x8801 : Half) ∨ w.extractLsb' 0 16 = (0xA801 : Half)) ∧
      w.extractLsb' 16 16 ≠ (0 : Half))) :
    ∃ d, decode .bus w = .error d := by
  cases hd : decode .bus w with
  | error d => exact ⟨d, rfl⟩
  | ok i =>
    obtain ⟨-, -, hwind, hcur⟩ := opcodeMap w (argField w)
    refine absurd ?_ h
    rcases decodeBus_ok hd with rfl | rfl
    · obtain ⟨hlow, -, harg⟩ := hwind.1 hd
      exact ⟨.inl hlow, harg⟩
    · obtain ⟨hlow, -, harg⟩ := hcur.1 hd
      exact ⟨.inr hlow, harg⟩

/-- The step in which HOST writes an illegal word to a CMD register (60_exceptions.md R217). -/
theorem step_illegalWord {s : State} {e : Engine} {w : Word} {d : CmdError}
    (hm : nextMove s = .hostWrite 32 (cmdReg e).offset w) (hd : decode e w = .error d) :
    step s = .next (issueIllegal e w (takeMove s)) := by
  rw [step_of_nextMove hm, makeMove_hostWrite_reg, hostWrite_cmdReg, hostWriteCmd, hd]

/-- Settles O22: the word fails a check of the decoder, which one is its DETAIL, and an idle engine accepts it and ends
at once. -/
theorem illegalWordEndsAtOnce : Obligations.IllegalWordEndsAtOnce := by
  refine ⟨fun s w hm hidle hrow => ?_, fun s w hm hidle hrow => ?_⟩
  · obtain ⟨d, hd⟩ := decodeSer_error_of_no_row hrow
    rw [step_illegalWord (e := .ser) hm hd, issueIllegal, issueSer_error _ (by simpa using hidle) hd, raiseSer_eq,
      detail_of_decodeSer_error hd, acceptSer, takeMove_dlHi, takeMove_dlLo]
    rfl
  · obtain ⟨d, hd⟩ := decodeBus_error_of_no_row hrow
    rw [step_illegalWord (e := .bus) hm hd, issueIllegal, issueBus_error _ (by simpa using hidle) hd, raiseBus_eq,
      detail_of_decodeBus_error hd]
    rfl

end Sys2Proof.Machine

/-! # Proofs: reset, and the bounded progress of a conversion (70_reset_and_hazards.md) -/

namespace Sys2Proof.Machine

open Sys2Proof

/-! ## Reset -/

theorem regValue_reset (r : HostReg) : regValue State.reset r = 0 := by
  cases r <;> rfl

/-- Asserting reset puts every host register to its value right after reset (70_reset_and_hazards.md R231). -/
theorem regValue_assertReset (s : State) (r : HostReg) : regValue (assertReset s) r = regValue State.reset r := by
  cases r <;> rfl

/-- Settles O9: an offset below the window is a register's, which holds 0, or it is unmapped. -/
theorem resetStateReadsZero : Obligations.ResetStateReadsZero := by
  refine ⟨fun off hlow => ?_, rfl, rfl, rfl, rfl, rfl, rfl⟩
  by_cases hreg : ∃ r : HostReg, off = r.offset
  · obtain ⟨r, rfl⟩ := hreg
    rw [hostReadValue_reg, regValue_reset]
  · exact hostReadValue_unmapped hlow (not_exists.1 hreg)

/-- Settles O10: the reset move asserts reset in the state in which it is made, whose channel and record of transactions
are those before the step. -/
theorem resetClearsBlock : Obligations.ResetClearsBlock := fun s hm =>
  ⟨assertReset (takeMove s), step_of_nextMove hm, fun r => (regValue_assertReset _ r).trans (regValue_reset r),
    rfl, rfl, rfl, takeMove_rxq s, takeMove_rxErr s, takeMove_busTrace s⟩

/-- Settles O12: at reset nothing is written to the buffer, and both engines are untouched since reset. -/
theorem resetHasInv : Obligations.ResetHasInv := ⟨Memory.wf_nil, SerInv_reset _, BusInv_reset⟩

/-! ## The transactions that a conversion's budget still allows -/

/-- The reads left in the budget, and in SELECT the write of the selector (42_conversion_poller.md R161, R164). -/
def BusEngine.transactionsLeft (e : BusEngine) : Nat :=
  e.maxr.toNat - e.reads.toNat + (if e.phase = .select then 1 else 0)

theorem BusEngine.transactionsLeft_select {e : BusEngine} (h : e.phase = .select) :
    e.transactionsLeft = e.maxr.toNat - e.reads.toNat + 1 := by
  rw [transactionsLeft, if_pos h]

theorem BusEngine.transactionsLeft_poll {e : BusEngine} (h : e.phase = .poll) :
    e.transactionsLeft = e.maxr.toNat - e.reads.toNat := by
  rw [transactionsLeft, if_neg (by simp [h]), Nat.add_zero]

/-- A polling conversion has a read left (42_conversion_poller.md R162). -/
theorem BusRunning.reads_lt {e : BusEngine} (h : BusRunning e) (hp : e.phase = .poll) : e.reads < e.maxr := by
  simp only [BusRunning, hp] at h
  obtain ⟨-, hlt, -⟩ := h
  exact hlt

theorem BusRunning.transactionsLeft_pos {e : BusEngine} (h : BusRunning e) : 0 < e.transactionsLeft := by
  cases hp : e.phase with
  | idle =>
    obtain ⟨hphase, -⟩ := h.decode_ok
    exact absurd hp hphase
  | select =>
    rw [e.transactionsLeft_select hp]
    exact Nat.succ_pos _
  | poll =>
    rw [e.transactionsLeft_poll hp]
    exact Nat.sub_pos_of_lt (h.reads_lt hp)

/-- An ended command has kept within its budget: READS <= MAXR (42_conversion_poller.md R164). -/
theorem BusEnded.reads_le {e : BusEngine} (h : BusEnded e) : e.reads ≤ e.maxr := by
  cases hp : e.phase <;> simp only [BusEnded, hp] at h
  case idle =>
    obtain ⟨-, -, ⟨hreads, -⟩, -⟩ := h
    bv_omega
  case select =>
    obtain ⟨-, ⟨hreads, -⟩, -⟩ := h
    bv_omega
  case poll =>
    obtain ⟨-, -, ⟨-, -, -, hle⟩ | ⟨-, -, heq⟩ | ⟨-, hlt, -⟩⟩ := h
    · exact hle
    · exact BitVec.le_of_eq heq
    · exact BitVec.le_of_lt hlt

/-! ## One transaction completed -/

/-- The last command has ended: DONE and not BUSY (60_exceptions.md R203). -/
def Status.Ended (st : Status) : Prop := st.busy = false ∧ st.done = true

theorem raiseBus_ended (r : Result) (d : BitVec 2) (s : State) : (raiseBus r d s).bus.st.Ended := ⟨rfl, rfl⟩

/-- What BUSDEV's completion of a transaction makes of a running conversion: its end, or one transaction fewer left
(70_reset_and_hazards.md R241). -/
def BusProgress (e f : BusEngine) : Prop :=
  f.st.Ended ∨ f.st.busy = true ∧ f.transactionsLeft + 1 = e.transactionsLeft

theorem selectStep_progress (a : BusAnswer) {s : State} (hb : s.bus.st.busy = true) (hp : s.bus.phase = .select) :
    BusProgress s.bus (selectStep (some a) s).bus := by
  cases a with
  | err => exact .inl (raiseBus_ended _ _ _)
  | ok =>
    refine .inr ⟨hb, ?_⟩
    rw [BusEngine.transactionsLeft_select hp, BusEngine.transactionsLeft_poll rfl]
    rfl

theorem pollStep_progress (a : BusAnswer) {s : State} (hb : s.bus.st.busy = true) (hp : s.bus.phase = .poll)
    (hlt : s.bus.reads < s.bus.maxr) : BusProgress s.bus (pollStep (some a) s).bus := by
  rcases pollStep_cases (some a) s with
      ⟨ha, _⟩ | ⟨_, e⟩ | ⟨_, _, _, _, _, e⟩ | ⟨_, _, _, _, _, _, e⟩ | ⟨_, _, _, _, _, _, e⟩
  · cases ha
  all_goals rw [e]
  · exact .inl (raiseBus_ended _ _ _)
  · exact .inl (raiseBus_ended _ _ _)
  · exact .inl (raiseBus_ended _ _ _)
  · refine .inr ⟨hb, ?_⟩
    have hsucc := toNat_succ_of_lt hlt
    rw [BitVec.lt_def] at hlt
    rw [BusEngine.transactionsLeft_poll hp, BusEngine.transactionsLeft_poll (by exact hp)]
    simp only [State.setBus_bus, pollRecord, hsucc]
    omega

theorem BusStep.progress {a : BusAnswer} {s t : State} (h : BusStep (some a) s t) (hb : s.bus.st.busy = true)
    (hrun : BusRunning s.bus) : BusProgress s.bus t.bus := by
  cases h with
  | select hp => exact selectStep_progress a hb hp
  | poll hp => exact pollStep_progress a hb hp (hrun.reads_lt hp)

/-! ## Runs of completed transactions -/

/-- A running conversion's move is its engine step, whatever moves come after it. -/
theorem BusRunning.runMoves_cons {s : State} (h : BusRunning s.bus) (hb : s.bus.st.busy = true)
    (a : Option BusAnswer) (ms : List Move) :
    ∃ t, BusStep a (s.busTurn a) t ∧ runMoves (.bus a :: ms) s = runMoves ms t := by
  obtain ⟨hphase, i, hd⟩ := h.decode_ok
  cases hp : s.bus.phase with
  | idle => exact absurd hp hphase
  | select => exact ⟨_, .select hp, runMoves_bus_select a ms hb hd hp⟩
  | poll => exact ⟨_, .poll hp, runMoves_bus_poll a ms hb hd hp⟩

/-- An idle BUS takes no engine step (60_exceptions.md R215). -/
theorem busMove_idle {s : State} (hb : s.bus.st.busy = false) : busMove s = .next s := by
  simp [busMove, hb]

theorem runMoves_bus_idle {s : State} (hb : s.bus.st.busy = false) (answers : List BusAnswer) :
    ∃ t, runMoves (answers.map fun a => .bus (some a)) s = .next t ∧ t.bus = s.bus := by
  induction answers generalizing s with
  | nil => exact ⟨s, runMoves_nil s, rfl⟩
  | cons a answers ih =>
    obtain ⟨t, hrun, hbus⟩ := ih (s := s.busTurn (some a)) hb
    have hmove := runMoves_cons (m := .bus (some a)) (u := s.busTurn (some a))
      (ms := answers.map fun a => .bus (some a)) (busMove_idle hb)
    exact ⟨t, hmove.trans hrun, hbus⟩

/-- As many completed transactions as a consistent busy BUS has left end its command, and MAXR stays: each one ends it
or leaves one fewer. -/
theorem runMoves_ends_of_transactionsLeft {s : State} {answers : List BusAnswer} (h : BusInv s.bus)
    (hb : s.bus.st.busy = true) (hlen : answers.length = s.bus.transactionsLeft) :
    ∃ t, runMoves (answers.map fun a => .bus (some a)) s = .next t ∧ BusInv t.bus ∧ t.bus.st.Ended ∧
      t.bus.maxr = s.bus.maxr := by
  induction answers generalizing s with
  | nil =>
    obtain ⟨-, -, -, hrun⟩ := (BusInv_running hb).1 h
    exact absurd hlen hrun.transactionsLeft_pos.ne
  | cons a answers ih =>
    obtain ⟨-, -, -, hrun⟩ := (BusInv_running hb).1 h
    obtain ⟨u, hstep, hmove⟩ := hrun.runMoves_cons hb (some a) (answers.map fun a => .bus (some a))
    have hinv : BusInv u.bus := hstep.inv hb h
    have hmaxr : u.bus.maxr = s.bus.maxr := (hstep.frame hb).maxr
    rcases hstep.progress hb hrun with ⟨hidle, hdone⟩ | ⟨hbusy, hleft⟩
    · obtain ⟨t, hrest, hbus⟩ := runMoves_bus_idle hidle answers
      exact ⟨t, hmove.trans hrest, hbus ▸ hinv, hbus ▸ ⟨hidle, hdone⟩, hbus ▸ hmaxr⟩
    · obtain ⟨t, hrest, hinv', hended, hmaxr'⟩ := ih hinv hbusy (Nat.succ.inj (hlen.trans hleft.symm))
      exact ⟨t, hmove.trans hrest, hinv', hended, hmaxr'.trans hmaxr⟩

/-- Settles O49: by induction on the transactions left, and an ended command has kept within its budget. -/
theorem convertEndsWithinItsBudget : Obligations.ConvertEndsWithinItsBudget := by
  intro s answers hinv hb hlen
  obtain ⟨t, hrun, hbus, ⟨hidle, hdone⟩, hmaxr⟩ := runMoves_ends_of_transactionsLeft hinv.bus hb hlen
  exact ⟨t, hrun, hidle, hdone, ((BusInv_ended hidle hdone).1 hbus).reads_le, hmaxr⟩

end Sys2Proof.Machine
